-- ==== Sys2Proof/Word.lean ====
section
/-! DEFINITION. The widths of the core (00_scope.md R10, R11): the machine word and the double-width product. -/

namespace Sys2Proof

/-- An operand, result or key value: an unsigned integer of W = 64 bits (R10). -/
abbrev Word := BitVec 64

/-- A product of two words, formed at 2W = 128 bits (R11). -/
abbrev DWord := BitVec 128

/-- A signed two's-complement Bézout coefficient of `modinv_engine`, W + 2 bits (10_state.md R46). -/
abbrev Coeff := BitVec 66

end Sys2Proof
end

