-- ==== Sys2Proof/Syntax.lean ====
section
/-! DEFINITION. The syntax: register transactions, commands and their operands, and the one inductive `Instr` with a constructor per
row of spec/opcode_table.json. -/

namespace Sys2Proof

/-- The inputs of the register port sampled at an edge with `reg_req = 1` (10_state.md R21, R22). -/
structure Transaction where
  /-- `reg_we`: a write. -/
  we : Bool
  /-- `reg_addr`: the byte offset of the register. -/
  addr : BitVec 7
  /-- `reg_size`: the number of bytes in the access. -/
  size : BitVec 4
  /-- `reg_wdata`: the data of a write. -/
  wdata : Word
  deriving DecidableEq, Repr

/-- What `L[OP]` can hold: the eight results of decoding a command word (10_state.md R44, 30_encoding.md R84). -/
inductive Command where
  | gcd | modinv | modmul | modexp | keygen | encrypt | decrypt | illegal
  deriving DecidableEq, Repr

/-- Everything a command's outcome depends on (40_command_model.md R103). -/
structure Operands where
  /-- `L[A]`: a, base, p, message or ciphertext. -/
  a : Word
  /-- `L[B]`: b, exponent or q. -/
  b : Word
  /-- `L[M]`: the modulus of MODINV, MODMUL and MODEXP. -/
  m : Word
  /-- `STATUS.KEY_VALID`. -/
  keyValid : Bool
  /-- `KEY_N`. -/
  keyN : Word
  /-- `KEY_E`. -/
  keyE : Word
  /-- `KEY_D`. -/
  keyD : Word
  deriving DecidableEq, Repr

/-- The instructions. The command rows name the command words of 30_encoding.md R83 and R85; the others are the
register transactions of R86, each under the name of its transaction key. -/
inductive Instr where
  /-- Command word 0x1 (41_number_theory.md R123). -/
  | gcd
  /-- Command word 0x2 (R130). -/
  | modinv
  /-- Command word 0x3 (R140). -/
  | modmul
  /-- Command word 0x4 (R150). -/
  | modexp
  /-- Command word 0x5 (42_key_derivation.md R160). -/
  | keygen
  /-- Command word 0x6 (43_cipher.md R190). -/
  | encrypt
  /-- Command word 0x7 (R193). -/
  | decrypt
  /-- Command word 0x0 (30_encoding.md R85). -/
  | illegalOp0
  /-- Command words 0x8 to 0xF (R85). -/
  | illegalOp8F (op : BitVec 4)
  /-- Command words whose reserved field, bits 63:4, is not zero (R85). -/
  | illegalRsvd (rsvd : BitVec 60) (op : BitVec 4)
  /-- Read of `ID`, key 0x00 (44_host_access.md R201). -/
  | rdId
  /-- Write of `ID`, key 0x80 (R201). -/
  | wrId (v : Word)
  /-- Read of `CTRL`, key 0x08 (R202). -/
  | rdCtrl
  /-- Write of `CTRL`, key 0x88 (R202). -/
  | wrCtrl (v : Word)
  /-- Read of `STATUS`, key 0x10 (R203). -/
  | rdStatus
  /-- Write of `STATUS`, key 0x90 (R204). -/
  | wrStatus (v : Word)
  /-- Read of `CMD`, key 0x18 (R205). -/
  | rdCmd
  /-- Write of the command word `w` to `CMD`, key 0x98 (R205). -/
  | wrCmd (w : Word)
  /-- Read of `OPA`, key 0x20 (R206). -/
  | rdOpa
  /-- Write of `OPA`, key 0xA0 (R206). -/
  | wrOpa (v : Word)
  /-- Read of `OPB`, key 0x28 (R206). -/
  | rdOpb
  /-- Write of `OPB`, key 0xA8 (R206). -/
  | wrOpb (v : Word)
  /-- Read of `OPM`, key 0x30 (R206). -/
  | rdOpm
  /-- Write of `OPM`, key 0xB0 (R206). -/
  | wrOpm (v : Word)
  /-- Read of `RES`, key 0x38 (R207). -/
  | rdRes
  /-- Write of `RES`, key 0xB8 (R207). -/
  | wrRes (v : Word)
  /-- Read of `KEY_N`, key 0x40 (R208). -/
  | rdKeyN
  /-- Write of `KEY_N`, key 0xC0 (R208). -/
  | wrKeyN (v : Word)
  /-- Read of `KEY_PHI`, key 0x48 (R208). -/
  | rdKeyPhi
  /-- Write of `KEY_PHI`, key 0xC8 (R208). -/
  | wrKeyPhi (v : Word)
  /-- Read of `KEY_E`, key 0x50 (R208). -/
  | rdKeyE
  /-- Write of `KEY_E`, key 0xD0 (R208). -/
  | wrKeyE (v : Word)
  /-- Read of `KEY_D`, key 0x58 (R208). -/
  | rdKeyD
  /-- Write of `KEY_D`, key 0xD8 (R208). -/
  | wrKeyD (v : Word)
  /-- Read of a reserved offset, keys 0x60, 0x68, 0x70, 0x78 (R209). -/
  | rdReserved (addr : BitVec 7)
  /-- Write of a reserved offset, keys 0xE0, 0xE8, 0xF0, 0xF8 (R209). -/
  | wrReserved (addr : BitVec 7) (v : Word)
  /-- A transaction of the wrong width or misaligned (R200, 20_memory.md R62-R64). -/
  | busError (we : Bool) (addr : BitVec 7) (size : BitVec 4)
  deriving DecidableEq, Repr

/-- The two kinds of encoded instruction: a 64-bit command word (30_encoding.md R80), and the fields of a register
transaction (R86). -/
inductive Encoded where
  | commandWord (w : Word)
  | transaction (t : Transaction)
  deriving DecidableEq, Repr

end Sys2Proof
end

