-- ==== Sys2Proof/Config.lean ====
section
/-! DEFINITION. What is fixed for the hardware (00_scope.md R9) and the values the spec leaves open, which are opaque. -/

namespace Sys2Proof.Config

/-- `W`, the operand and register width in bits (R9). -/
def operandWidth : Nat := 64

/-- The size of the register space in bytes, 2 ^ ADDR_BITS with ADDR_BITS = 7 (R9, 20_memory.md R60). -/
def registerSpaceBytes : Nat := 128

/-- `E_SEARCH_LIMIT`, the largest public-exponent candidate KEYGEN tries (R9, 42_key_derivation.md R166). -/
def eSearchLimit : Nat := 65537

/-- `MAGIC`, bits 31:0 of `ID` (10_state.md R31). -/
def idMagic : BitVec 32 := 0x4D584531

/-- `OPW`, bits 39:32 of `ID` (R31). -/
def idOpw : BitVec 8 := BitVec.ofNat 8 operandWidth

/-- `REV`, bits 47:40 of `ID` (R9, R31). -/
def idRev : BitVec 8 := 1

/-- The constant value of the `ID` register, from its fields (R3, R31). -/
def idValue : Word := (0 : BitVec 16) ++ idRev ++ idOpw ++ idMagic

/-- FREE VALUE. `LATENCY(cmd, operands)` (R9, 40_command_model.md R105) less one, for the acceptance of a command on its
operands by an instance, with this draw number: any number, so LATENCY is any finite number from 1 on. It may depend on the
operand values (70_reset_and_hazards.md R277), and the draws of two instances are unrelated. Assumption 2. -/
opaque latencyDraw (inst draw : Nat) (c : Command) (o : Operands) : Nat

/-- FREE VALUE. How many iterations of its reference microsequence the engine of an instance performs in the continuing
step with this draw number, of a command on its operands (93_implementation_defined.md S2). Assumption 3. -/
opaque iterationDraw (inst draw : Nat) (c : Command) (o : Operands) : Nat

/-- The hidden working registers of the units (10_state.md R46), by their field names in the engine. -/
inductive WorkingReg where
  | acc | base | exp | ga | gb | r0 | r1 | t0 | t1 | mu | k | x | quo | rem | kn | kphi | ke | kd
  deriving DecidableEq, Repr

/-- FREE VALUE. What a working register, of any width, holds once a command of an instance has completed (10_state.md R46,
93_implementation_defined.md S3: any value), for the completion with this draw number of a command on its operands, with
`last` in the register. Assumption 12. -/
opaque workingDraw (inst draw : Nat) (c : Command) (o : Operands) (r : WorkingReg) {w : Nat} (last : BitVec w) : BitVec w

/-- OPEN. The 128-byte page at which the system places an instance of the core: `BASE_ADDR` is 0x80 times
this number (R9, 20_memory.md R61). Assumption 17. -/
opaque basePage : Nat → Nat

/-- OPEN. `N_INST`, how many instances of the core a system holds (R9, 60_exceptions.md R249). Assumption 17. -/
opaque instanceCount : Nat

/-- `BASE_ADDR` of an instance: always a multiple of 0x80 (20_memory.md R61). -/
def baseAddr (inst : Nat) : Nat := 0x80 * basePage inst

end Sys2Proof.Config
end

