-- ==== Sys2Proof/WellFormed.lean ====
section
/-! DEFINITION. Which terms of `Instr` an encoding can name. -/

namespace Sys2Proof

/-- A register offset that is a multiple of 8 (20_memory.md R63). -/
def alignedAddr (addr : BitVec 7) : Bool := addr &&& 7 == 0

/-- The reserved offsets 0x60, 0x68, 0x70, 0x78 (20_memory.md R65): the row's pattern, bits 6:5 set and 2:0 clear. -/
def reservedAddr (addr : BitVec 7) : Bool := addr &&& 0x67 == 0x60

/-- The checks on an instruction's fields: the illegal rows hold the values that make them illegal (30_encoding.md
R85), a reserved offset is one (20_memory.md R65), and a bus error is malformed (R62, R63). -/
def Instr.wellFormed : Instr → Bool
  | .illegalOp8F op => 8 ≤ op.toNat
  | .illegalRsvd rsvd _ => rsvd != 0
  | .rdReserved addr => reservedAddr addr
  | .wrReserved addr _ => reservedAddr addr
  | .busError _ addr size => !alignedAddr addr || size != 8
  | .gcd | .modinv | .modmul | .modexp | .keygen | .encrypt | .decrypt | .illegalOp0 => true
  | .rdId | .rdCtrl | .rdStatus | .rdCmd | .rdOpa | .rdOpb | .rdOpm | .rdRes => true
  | .rdKeyN | .rdKeyPhi | .rdKeyE | .rdKeyD => true
  | .wrId _ | .wrCtrl _ | .wrStatus _ | .wrCmd _ | .wrOpa _ | .wrOpb _ | .wrOpm _ | .wrRes _ => true
  | .wrKeyN _ | .wrKeyPhi _ | .wrKeyE _ | .wrKeyD _ => true

end Sys2Proof
end

