-- ==== Sys2Proof/Decode.lean ====
section
/-! DEFINITION. The decoder (30_encoding.md R84, 44_host_access.md R200-R209), total on every command word and every
transaction, and after it the encoder. Nothing is rejected: the words and transactions that name no command and no
register have rows of their own (ILLEGAL, BUS_ERROR). -/

namespace Sys2Proof

/-- The `OP` field of a command word, bits 3:0 (R80). -/
def opField (w : Word) : BitVec 4 := w.extractLsb' 0 4

/-- The reserved field of a command word, bits 63:4 (R80). -/
def rsvdField (w : Word) : BitVec 60 := w.extractLsb' 4 60

/-- Decode of a command word (R83, R84): the reserved field first, then the opcode map. -/
def decodeCommandWord (w : Word) : Instr :=
  if rsvdField w ≠ 0 then .illegalRsvd (rsvdField w) (opField w)
  else
    match (opField w).toNat with
    | 0x0 => .illegalOp0
    | 0x1 => .gcd
    | 0x2 => .modinv
    | 0x3 => .modmul
    | 0x4 => .modexp
    | 0x5 => .keygen
    | 0x6 => .encrypt
    | 0x7 => .decrypt
    | _ => .illegalOp8F (opField w)

/-- What the acceptance of a command word latches in `L[OP]`, as a function of the word's instruction (10_state.md R44). -/
def commandOf : Instr → Command
  | .gcd => .gcd
  | .modinv => .modinv
  | .modmul => .modmul
  | .modexp => .modexp
  | .keygen => .keygen
  | .encrypt => .encrypt
  | .decrypt => .decrypt
  | _ => .illegal

/-- `decode(w)` of R84: the command a word names. -/
def decodeOp (w : Word) : Command := commandOf (decodeCommandWord w)

/-- Decode of a legal read by its offset (44_host_access.md R201-R209). -/
def decodeRead (addr : BitVec 7) : Instr :=
  match addr.toNat with
  | 0x00 => .rdId
  | 0x08 => .rdCtrl
  | 0x10 => .rdStatus
  | 0x18 => .rdCmd
  | 0x20 => .rdOpa
  | 0x28 => .rdOpb
  | 0x30 => .rdOpm
  | 0x38 => .rdRes
  | 0x40 => .rdKeyN
  | 0x48 => .rdKeyPhi
  | 0x50 => .rdKeyE
  | 0x58 => .rdKeyD
  | _ => .rdReserved addr

/-- Decode of a legal write by its offset (44_host_access.md R201-R209). -/
def decodeWrite (addr : BitVec 7) (v : Word) : Instr :=
  match addr.toNat with
  | 0x00 => .wrId v
  | 0x08 => .wrCtrl v
  | 0x10 => .wrStatus v
  | 0x18 => .wrCmd v
  | 0x20 => .wrOpa v
  | 0x28 => .wrOpb v
  | 0x30 => .wrOpm v
  | 0x38 => .wrRes v
  | 0x40 => .wrKeyN v
  | 0x48 => .wrKeyPhi v
  | 0x50 => .wrKeyE v
  | 0x58 => .wrKeyD v
  | _ => .wrReserved addr v

/-- Decode of a sampled transaction (R200): the error response first (alignment, then width: 20_memory.md R63), then
the key. -/
def decodeTransaction (t : Transaction) : Instr :=
  if !alignedAddr t.addr || t.size != 8 then .busError t.we t.addr t.size
  else if t.we then decodeWrite t.addr t.wdata
  else decodeRead t.addr

/-- The decoder. -/
def decode : Encoded → Instr
  | .commandWord w => decodeCommandWord w
  | .transaction t => decodeTransaction t

/-- The command word of a command row (R83): the opcode with a zero reserved field. -/
def opWord (op : Nat) : Encoded := .commandWord (BitVec.ofNat 64 op)

/-- A legal read of an offset (30_encoding.md R86, R87). -/
def readAt (addr : BitVec 7) : Encoded := .transaction ⟨false, addr, 8, 0⟩

/-- A legal write of an offset (R86, R87). -/
def writeAt (addr : BitVec 7) (v : Word) : Encoded := .transaction ⟨true, addr, 8, v⟩

/-- The encoder, from the opcode map (R83) and the transaction keys (R86, 44_host_access.md R201-R209). -/
def encode : Instr → Encoded
  | .gcd => opWord 0x1
  | .modinv => opWord 0x2
  | .modmul => opWord 0x3
  | .modexp => opWord 0x4
  | .keygen => opWord 0x5
  | .encrypt => opWord 0x6
  | .decrypt => opWord 0x7
  | .illegalOp0 => opWord 0x0
  | .illegalOp8F op => .commandWord ((0 : BitVec 60) ++ op)
  | .illegalRsvd rsvd op => .commandWord (rsvd ++ op)
  | .rdId => readAt 0x00
  | .wrId v => writeAt 0x00 v
  | .rdCtrl => readAt 0x08
  | .wrCtrl v => writeAt 0x08 v
  | .rdStatus => readAt 0x10
  | .wrStatus v => writeAt 0x10 v
  | .rdCmd => readAt 0x18
  | .wrCmd w => writeAt 0x18 w
  | .rdOpa => readAt 0x20
  | .wrOpa v => writeAt 0x20 v
  | .rdOpb => readAt 0x28
  | .wrOpb v => writeAt 0x28 v
  | .rdOpm => readAt 0x30
  | .wrOpm v => writeAt 0x30 v
  | .rdRes => readAt 0x38
  | .wrRes v => writeAt 0x38 v
  | .rdKeyN => readAt 0x40
  | .wrKeyN v => writeAt 0x40 v
  | .rdKeyPhi => readAt 0x48
  | .wrKeyPhi v => writeAt 0x48 v
  | .rdKeyE => readAt 0x50
  | .wrKeyE v => writeAt 0x50 v
  | .rdKeyD => readAt 0x58
  | .wrKeyD v => writeAt 0x58 v
  | .rdReserved addr => readAt addr
  | .wrReserved addr v => writeAt addr v
  | .busError we addr size => .transaction ⟨we, addr, size, 0⟩

/-- The transaction key `TK = reg_we * 128 + reg_addr` (R86). -/
def transactionKey (t : Transaction) : BitVec 8 := BitVec.ofBool t.we ++ t.addr

/-- The transaction with a key, of width 8 and with data zero: how the opcode table names a transaction (assumption 7). -/
def transactionOfKey (key : BitVec 8) : Transaction :=
  ⟨key.getLsbD 7, key.extractLsb' 0 7, 8, 0⟩

/-- The encoded form of a word of the opcode table: a row of up to 8 bits is a transaction key, a longer one, up to 64
bits, a command word (assumption 7). -/
def encodedOfTableWord (nbits w : Nat) : Option Encoded :=
  if w < 2 ^ nbits then
    if nbits ≤ 8 then some (.transaction (transactionOfKey (BitVec.ofNat 8 w)))
    else if nbits ≤ 64 then some (.commandWord (BitVec.ofNat 64 w))
    else none
  else none

/-- The instruction the decoder reads from a word of the opcode table, as spec/opcode_table.json numbers its bits. -/
def decodeTableWord (nbits w : Nat) : Option Instr := (encodedOfTableWord nbits w).map decode

end Sys2Proof
end

