-- ==== Sys2Proof/Machine/State.lean ====
section
/-! DEFINITION. The state of `cipher_core` (10_state.md R20-R49), its value after reset (R48), and the reasons a step
can stop. -/

namespace Sys2Proof.Machine

/-- Why the machine stops. -/
inductive Fault where
  /-- Raised by the handling of every event but the assertion of reset, before the first reset: the state is unspecified and
  the model stuck until reset (70_reset_and_hazards.md R262, 93_implementation_defined.md S4). Safe. Assumption 11. -/
  | beforeFirstReset
  deriving DecidableEq, Repr

/-- Why the model gives no meaning. -/
inductive Refusal where
  /-- Raised by the arm of an instruction that has no meaning yet; no arm does. Safe. -/
  | notModelled (mnemonic : String)
  deriving DecidableEq, Repr

/-- The error causes of 60_exceptions.md R230. -/
inductive ErrCode where
  | illegalCmd | zeroModulus | noInverse | invalidFactor | arithOverflow | eNotFound | noKey | keyLocked
  deriving DecidableEq, Repr

/-- The outcome of an accepted command (40_command_model.md R103). -/
inductive CmdOutcome where
  /-- A result to publish in `RES`. -/
  | okRes (v : Word)
  /-- A derived key to publish in the key registers. -/
  | okKey (n phi e d : Word)
  /-- A command error. -/
  | err (code : ErrCode)
  deriving DecidableEq, Repr

/-- The states of `key_derivation_fsm` (42_key_derivation.md R172); `K_ERR` holds the code it was entered with. -/
inductive KeyFsm where
  | kIdle | kCheck | kMul | kEinit | kEgcd | kEtest | kDinv | kCommit
  | kErr (code : ErrCode)
  deriving DecidableEq, Repr

/-- Where a unit's reference microsequence stands: before its registers are loaded, or in its loop. The model's own
field. -/
inductive UnitPhase where
  | load | loop
  deriving DecidableEq, Repr

/-- The engine: the hidden working registers of 10_state.md R46, the FSM, and the pending outcome of R49. -/
structure Engine where
  /-- `ACC` of `modexp_engine`. -/
  acc : Word
  /-- `BASE` of `modexp_engine`. -/
  base : Word
  /-- `EXP` of `modexp_engine`. -/
  exp : Word
  /-- `GA` of `gcd_unit`. -/
  ga : Word
  /-- `GB` of `gcd_unit`. -/
  gb : Word
  /-- `R0` of `modinv_engine`. -/
  r0 : Word
  /-- `R1` of `modinv_engine`. -/
  r1 : Word
  /-- `T0` of `modinv_engine`, signed. -/
  t0 : Coeff
  /-- `T1` of `modinv_engine`, signed. -/
  t1 : Coeff
  /-- `MU` of `barrett_reduce`, W + 2 bits. -/
  mu : BitVec 66
  /-- `K` of `barrett_reduce`. -/
  k : BitVec 7
  /-- The product `X` of `barrett_reduce`. -/
  x : DWord
  /-- The quotient of `div_unit`. -/
  quo : Word
  /-- The remainder of `div_unit`. -/
  rem : Word
  /-- `KN`, the staging copy of the modulus. -/
  kn : Word
  /-- `KPHI`, the staging copy of the totient. -/
  kphi : Word
  /-- `KE`, the staging copy of the public exponent. -/
  ke : Word
  /-- `KD`, the staging copy of the private exponent. -/
  kd : Word
  /-- The state of `key_derivation_fsm`. -/
  kfsm : KeyFsm
  /-- Where the running unit's microsequence stands. -/
  unit : UnitPhase
  /-- The pending outcome (R49), once the microsequence has found it. -/
  pending : Option CmdOutcome
  deriving DecidableEq, Repr

/-- The engine after reset: `K_IDLE` (70_reset_and_hazards.md R261); the working registers, which the spec leaves
unspecified, at 0 (assumption 1). -/
def Engine.reset : Engine where
  acc := 0
  base := 0
  exp := 0
  ga := 0
  gb := 0
  r0 := 0
  r1 := 0
  t0 := 0
  t1 := 0
  mu := 0
  k := 0
  x := 0
  quo := 0
  rem := 0
  kn := 0
  kphi := 0
  ke := 0
  kd := 0
  kfsm := .kIdle
  unit := .load
  pending := none

/-- The reset input over time (70_reset_and_hazards.md R260, R262). -/
inductive ResetPhase where
  /-- Reset has never been asserted. -/
  | beforeFirst
  /-- `rst_n` is low. -/
  | held
  /-- `rst_n` is high again, and the edge at which the core leaves reset has not come. -/
  | released
  /-- The core is out of reset. -/
  | running
  deriving DecidableEq, Repr

/-- What can happen to the core (40_command_model.md R110): the events a schedule is made of. -/
inductive Event where
  /-- An edge with `reg_req = 1`: the host transaction (HostRead, HostWrite, HostBad). -/
  | transaction (t : Transaction)
  /-- The engine step of an edge that had a transaction (EngineStep). -/
  | engineStep
  /-- An edge with `reg_req = 0`: no response, and the engine step. -/
  | idleEdge
  /-- `rst_n` goes low (Reset). -/
  | resetAssert
  /-- `rst_n` goes high. -/
  | resetRelease
  deriving DecidableEq, Repr

/-- The state of the core (R49), with the hidden working registers (R46), the port's response (R22) and the events to
come. -/
structure State where
  /-- `CTRL[2:0]` (R29). -/
  ctrl : BitVec 3
  /-- `STATUS.BUSY` (R32), which is `SEQ = RUN` (R43). -/
  busy : Bool
  /-- `STATUS.DONE` (R33). -/
  done : Bool
  /-- `STATUS.ERR` (R34). -/
  err : Bool
  /-- `STATUS.OVR` (R35). -/
  ovr : Bool
  /-- `STATUS.KEY_VALID` (R36). -/
  keyValid : Bool
  /-- `STATUS.ERRCODE` (R34). -/
  errcode : BitVec 8
  /-- `STATUS.LASTOP` (R44). -/
  lastop : BitVec 4
  /-- `OPA` (R24). -/
  opa : Word
  /-- `OPB` (R25). -/
  opb : Word
  /-- `OPM` (R26). -/
  opm : Word
  /-- `RES` (R27). -/
  res : Word
  /-- `KEY_N` (R37). -/
  keyN : Word
  /-- `KEY_PHI` (R38). -/
  keyPhi : Word
  /-- `KEY_E` (R39). -/
  keyE : Word
  /-- `KEY_D` (R40). -/
  keyD : Word
  /-- `L[OP]` (R44). -/
  lop : Command
  /-- `L[A]` (R45). -/
  la : Word
  /-- `L[B]` (R45). -/
  lb : Word
  /-- `L[M]` (R45). -/
  lm : Word
  /-- The units' working registers, the FSM and the pending outcome (R43, R46, R49). -/
  eng : Engine
  /-- How many engine steps the running command still takes: `LATENCY` counted down (40_command_model.md R105). The
  model's own field. -/
  stepsLeft : Nat
  /-- The number of the next free value to draw. The model's own field. -/
  draws : Nat
  /-- Which instance of the system this core is (60_exceptions.md R249): the stream its free values are drawn from. The core
  cannot see it. The model's own field. -/
  inst : Nat
  /-- `reg_ack` (R22). -/
  ack : Bool
  /-- `reg_rdata` (R22). -/
  rdata : Word
  /-- `reg_err` (R22). -/
  rerr : Bool
  /-- Where the reset input stands (70_reset_and_hazards.md R260). -/
  rst : ResetPhase
  /-- The events to come, the next one first; with none left, edges without a request follow (assumption 5). -/
  events : List Event
  deriving DecidableEq, Repr

/-- The machine right after reset (R48). -/
def State.reset : State where
  ctrl := 0
  busy := false
  done := false
  err := false
  ovr := false
  keyValid := false
  errcode := 0
  lastop := 0
  opa := 0
  opb := 0
  opm := 0
  res := 0
  keyN := 0
  keyPhi := 0
  keyE := 0
  keyD := 0
  lop := .illegal
  la := 0
  lb := 0
  lm := 0
  eng := Engine.reset
  stepsLeft := 0
  draws := 0
  inst := 0
  ack := false
  rdata := 0
  rerr := false
  rst := .running
  events := []

/-- What a step or a meaning answers. -/
abbrev Answer := Host.Outcome State Fault Refusal

end Sys2Proof.Machine
end

