-- ==== Sys2Proof/Machine/Flags.lean ====
section
/-! DEFINITION. The status and control words, the error codes and the interrupt line (10_state.md R29, R30;
44_host_access.md R203, R204; 60_exceptions.md R230, R240). -/

namespace Sys2Proof.Machine

/-- The codes of 60_exceptions.md R230. -/
def ErrCode.code : ErrCode → BitVec 8
  | .illegalCmd => 0x01
  | .zeroModulus => 0x02
  | .noInverse => 0x03
  | .invalidFactor => 0x04
  | .arithOverflow => 0x05
  | .eNotFound => 0x06
  | .noKey => 0x07
  | .keyLocked => 0x08

/-- `CTRL.DONE_IE` (10_state.md R29). -/
def State.doneIe (s : State) : Bool := s.ctrl.getLsbD 0

/-- `CTRL.ERR_IE` (R29). -/
def State.errIe (s : State) : Bool := s.ctrl.getLsbD 1

/-- `CTRL.OVR_IE` (R29). -/
def State.ovrIe (s : State) : Bool := s.ctrl.getLsbD 2

/-- The value a read of `CTRL` returns: bits 63:3 are zero (44_host_access.md R202). -/
def State.ctrlWord (s : State) : Word := s.ctrl.setWidth 64

/-- The value a read of `STATUS` returns (44_host_access.md R203):
`{LASTOP, ERRCODE, 000, KEY_VALID, OVR, ERR, DONE, BUSY}` zero-extended. -/
def State.statusWord (s : State) : Word :=
  (s.lastop ++ s.errcode ++ (0 : BitVec 3) ++ BitVec.ofBool s.keyValid ++ BitVec.ofBool s.ovr ++ BitVec.ofBool s.err
    ++ BitVec.ofBool s.done ++ BitVec.ofBool s.busy).setWidth 64

/-- The effect of a write of `STATUS`: each of DONE, ERR and OVR whose bit in the data is 1 is cleared (44_host_access.md
R204). -/
def State.w1c (s : State) (v : Word) : State :=
  { s with
    done := s.done && !v.getLsbD 1
    err := s.err && !v.getLsbD 2
    ovr := s.ovr && !v.getLsbD 3 }

/-- The interrupt output, a level (60_exceptions.md R240). -/
def State.irq (s : State) : Bool :=
  (s.done && s.doneIe) || (s.err && s.errIe) || (s.ovr && s.ovrIe)

/-- A rising edge of `irq` between two states, what an edge-sampling controller sees (60_exceptions.md R242). -/
def irqRises (before after : State) : Bool := !before.irq && after.irq

/-- The sequencer states (10_state.md R43). -/
inductive Seq where
  | idle | run
  deriving DecidableEq, Repr

/-- `SEQ`, which is `RUN` exactly while `BUSY` is 1 (10_state.md R43). -/
def State.seq (s : State) : Seq := if s.busy then .run else .idle

end Sys2Proof.Machine
end

