-- ==== Sys2Proof/Machine/Operands.lean ====
section
/-! DEFINITION. The operands of a command (30_encoding.md R81): the latched registers and the key registers. -/

namespace Sys2Proof.Machine

/-- The operands of the running command: only latched copies and key registers (10_state.md R45). -/
def State.operands (s : State) : Operands :=
  { a := s.la, b := s.lb, m := s.lm, keyValid := s.keyValid, keyN := s.keyN, keyE := s.keyE, keyD := s.keyD }

/-- The copy of the operand registers taken at acceptance (10_state.md R45, 40_command_model.md R101). -/
def State.latchOperands (s : State) : State :=
  { s with la := s.opa, lb := s.opb, lm := s.opm }

/-- Operand pre-reduction, `x mod m` for `m >= 1` (41_number_theory.md R121). -/
def red (x m : Word) : Word := x % m

end Sys2Proof.Machine
end

