-- ==== Sys2Proof/Machine/Units.lean ====
section
/-! DEFINITION. The units and their reference microsequences (41_number_theory.md R120-R152): `div_unit`, `gcd_unit`,
`modinv_engine`, `barrett_reduce`, `modexp_engine`. One microstep is one iteration of the unit's loop, or its load. -/

namespace Sys2Proof.Machine

/-- What a unit answers to a microstep. -/
inductive UnitResult where
  /-- The unit has not come to its end. -/
  | running
  /-- The unit has come to its end with a value. -/
  | ok (v : Word)
  /-- `modinv_engine` has come to its end and found no inverse (R129). -/
  | fail
  deriving DecidableEq, Repr

/-- `bitlen(x)` (00_scope.md R14): the number of bits of x without leading zeros, with `bitlen(0) = 0`. -/
def bitlen (x : Nat) : Nat := if x = 0 then 0 else x.log2 + 1

/-- `div_unit` on a W-bit dividend (R120): it leaves the quotient and the remainder in its registers. -/
def divUnit (x y : Word) (e : Engine) : Engine := { e with quo := x / y, rem := x % y }

/-! ### gcd_unit -/

/-- `GA <- a; GB <- b` (R122). -/
def gcdLoad (a b : Word) (e : Engine) : Engine := { e with ga := a, gb := b, unit := .loop }

/-- One iteration, for `GB != 0`: `(GA, GB) <- (GB, GA mod GB)` (R122). -/
def gcdIter (e : Engine) : Engine :=
  let e' := divUnit e.ga e.gb e
  { e' with ga := e.gb, gb := e'.rem }

/-- A microstep of `gcd_unit` on `(a, b)` (R122). -/
def gcdStep (a b : Word) (e : Engine) : Engine × UnitResult :=
  match e.unit with
  | .load => (gcdLoad a b e, .running)
  | .loop => if e.gb = 0 then (e, .ok e.ga) else (gcdIter e, .running)

/-! ### modinv_engine -/

/-- `R0 <- m; R1 <- red(a, m); T0 <- 0; T1 <- 1` (R129). -/
def modinvLoad (a m : Word) (e : Engine) : Engine :=
  { divUnit a m e with r0 := m, r1 := red a m, t0 := 0, t1 := 1, unit := .loop }

/-- One iteration, for `R1 != 0` (R129); the new coefficient is computed exactly and stored in W + 2 bits (R14). -/
def modinvIter (e : Engine) : Engine :=
  let e' := divUnit e.r0 e.r1 e
  let q := e'.quo
  { e' with
    r0 := e.r1
    r1 := BitVec.ofNat 64 (e.r0.toNat - q.toNat * e.r1.toNat)
    t0 := e.t1
    t1 := BitVec.ofInt 66 (e.t0.toInt - q.toNat * e.t1.toInt) }

/-- `if T0 < 0: T0 <- T0 + m` (R129). -/
def modinvNormalise (m : Word) (e : Engine) : Engine :=
  if e.t0.toInt < 0 then { e with t0 := BitVec.ofInt 66 (e.t0.toInt + m.toNat) } else e

/-- A microstep of `modinv_engine` on `(a, m)`, for `m >= 1` (R129). -/
def modinvStep (a m : Word) (e : Engine) : Engine × UnitResult :=
  match e.unit with
  | .load => if m = 1 then (e, .ok 0) else (modinvLoad a m e, .running)
  | .loop =>
    if e.r1 ≠ 0 then (modinvIter e, .running)
    else if e.r0 ≠ 1 then (e, .fail)
    else
      let e' := modinvNormalise m e
      (e', .ok (BitVec.ofInt 64 e'.t0.toInt))

/-! ### barrett_reduce -/

/-- `K <- bitlen(m)` and `MU <- floor(2^(2k) / m)`, once per command (R139). The quotient has up to W + 2 bits (R120) and goes to
`MU`, which holds it whole; the W-bit quotient register does not take it, since no store truncates (00_scope.md R14,
assumption 13). -/
def barrettSetup (m : Word) (e : Engine) : Engine :=
  let k := bitlen m.toNat
  let dividend := 2 ^ (2 * k)
  { e with
    k := BitVec.ofNat 7 k
    mu := BitVec.ofNat 66 (dividend / m.toNat)
    rem := BitVec.ofNat 64 (dividend % m.toNat) }

/-- The estimate `r = x - q3 * m` of R139, before the corrections. -/
def barrettEstimate (mu k m x : Nat) : Nat :=
  let q1 := x >>> (k - 1)
  let q3 := (q1 * mu) >>> (k + 1)
  x - q3 * m

/-- `while r >= m: r <- r - m` (R139), with at most `fuel` subtractions. -/
def barrettCorrect (fuel r m : Nat) : Nat :=
  match fuel with
  | 0 => r
  | fuel + 1 => if m ≤ r then barrettCorrect fuel (r - m) m else r

/-- `barrett(x, m)` with the constants in `K` and `MU` (R139): `x mod m` for `x < m * m`. The loop runs until `r < m`; `r`
subtractions are always enough. -/
def barrettReduce (e : Engine) (m : Word) (x : DWord) : Word :=
  let r := barrettEstimate e.mu.toNat e.k.toNat m.toNat x.toNat
  BitVec.ofNat 64 (barrettCorrect r r m.toNat)

/-- The product of two words at 2W bits (00_scope.md R11). -/
def wideProduct (a b : Word) : DWord := BitVec.ofNat 128 (a.toNat * b.toNat)

/-! ### modexp_engine -/

/-- `BASE <- red(b, m); ACC <- 1 mod m; EXP <- e` (R149), with the constants of `barrett_reduce`. DESIGN CHOICE: `div_unit` computes
`MU` first and the pre-reduction last, so its registers are left with the pre-reduction (assumption 23). -/
def modexpLoad (b ex m : Word) (e : Engine) : Engine :=
  { divUnit b m (barrettSetup m e) with base := red b m, acc := red 1 m, exp := ex, unit := .loop }

/-- `if EXP[0] == 1: ACC <- barrett(ACC * BASE, m)` (R149). -/
def modexpMultiply (m : Word) (e : Engine) : Engine :=
  if e.exp.getLsbD 0 then
    let p := wideProduct e.acc e.base
    { e with x := p, acc := barrettReduce e m p }
  else e

/-- `BASE <- barrett(BASE * BASE, m)` (R149). -/
def modexpSquare (m : Word) (e : Engine) : Engine :=
  let p := wideProduct e.base e.base
  { e with x := p, base := barrettReduce e m p }

/-- One iteration, for `EXP != 0`: multiply, square, shift (R149). -/
def modexpIter (m : Word) (e : Engine) : Engine :=
  let e' := modexpSquare m (modexpMultiply m e)
  { e' with exp := e'.exp >>> 1 }

/-- A microstep of `modexp_engine` on `(b, e, m)`, for `m >= 1` (R149). -/
def modexpStep (b ex m : Word) (e : Engine) : Engine × UnitResult :=
  match e.unit with
  | .load => (modexpLoad b ex m e, .running)
  | .loop => if e.exp = 0 then (e, .ok e.acc) else (modexpIter m e, .running)

end Sys2Proof.Machine
end

