-- ==== Sys2Proof/Machine/Ops.lean ====
section
/-! DEFINITION. The shared operations: the port's response (10_state.md R22), accepting and dropping a command
(40_command_model.md R100, R101), publishing its outcome (R106) and raising its error (R107), the engine step (R104,
R105), entering and leaving reset (70_reset_and_hazards.md R260, R261), and the read value of each register. -/

namespace Sys2Proof.Machine

/-! ### The response of the register port -/

/-- The response driven in the cycle after a transaction (10_state.md R22). -/
def State.respond (s : State) (rdata : Word) (rerr : Bool) : State :=
  { s with ack := true, rdata := rdata, rerr := rerr }

/-- No response: the cycle after an edge with `reg_req = 0` (R22). -/
def State.noResponse (s : State) : State := { s with ack := false, rdata := 0, rerr := false }

/-- The answer to a legal read of a register that holds `v` (44_host_access.md R200). -/
def answerRead (v : Word) (s : State) : Answer := .next (s.respond v false)

/-- The answer to a legal write, after its effect (R200). -/
def answerWrite (s : State) : Answer := .next (s.respond 0 false)

/-- The error response (20_memory.md R64). -/
def answerBusError (s : State) : Answer := .next (s.respond 0 true)

/-! ### Accepting and dropping a command -/

/-- The engine at acceptance: no outcome yet, the unit's registers to be loaded, the FSM in `K_CHECK` for KEYGEN
(42_key_derivation.md R172). -/
def Engine.start (c : Command) (e : Engine) : Engine :=
  { e with
    unit := .load
    pending := none
    kfsm := if c = .keygen then .kCheck else .kIdle }

/-- `LATENCY(cmd, operands)` of the command being accepted (00_scope.md R9, 40_command_model.md R105): a free value of at
least 1 that may depend on the command and its operands (70_reset_and_hazards.md R277), and 1 for an illegal word. -/
def latencyOf (c : Command) (o : Operands) (inst draw : Nat) : Nat :=
  match c with
  | .illegal => 1
  | .gcd | .modinv | .modmul | .modexp | .keygen | .encrypt | .decrypt => Config.latencyDraw inst draw c o + 1

/-- Acceptance of the command word `w` (40_command_model.md R101). -/
def State.accept (s : State) (w : Word) : State :=
  { s.latchOperands with
    lop := decodeOp w
    lastop := opField w
    done := false
    err := false
    errcode := 0
    busy := true
    eng := s.eng.start (decodeOp w)
    stepsLeft := latencyOf (decodeOp w) s.latchOperands.operands s.inst s.draws
    draws := s.draws + 1 }

/-- A `CMD` write during a BUSY window (R100). -/
def State.dropCommand (s : State) : State := { s with ovr := true }

/-- A command request (R100, R101). -/
def State.requestCommand (s : State) (w : Word) : State :=
  if s.busy then s.dropCommand else s.accept w

/-! ### Completing a command -/

/-- `complete(v)`: the completing step with `OkRes(v)` (R106). -/
def State.completeRes (s : State) (v : Word) : State := { s with res := v, busy := false, done := true }

/-- The completing step with `OkKey(n, phi, e, d)`, the commit of KEYGEN (R106, 42_key_derivation.md R170). -/
def State.completeKey (s : State) (n phi e d : Word) : State :=
  { s with keyN := n, keyPhi := phi, keyE := e, keyD := d, keyValid := true, busy := false, done := true }

/-- `raise Error(code)`: taking a command error, the completing step with `Err(code)` (R107, 60_exceptions.md R232). -/
def State.raiseError (s : State) (code : ErrCode) : State :=
  { s with errcode := code.code, err := true, busy := false }

/-- Publishing an outcome (R106, R107). -/
def State.publish (s : State) : CmdOutcome → State
  | .okRes v => s.completeRes v
  | .okKey n phi e d => s.completeKey n phi e d
  | .err code => s.raiseError code

/-! ### The engine step -/

/-- A command's reference microsequence: what one microstep makes of the engine. -/
abbrev Micro := Operands → Engine → Engine

/-- Up to `n` microsteps, none once the outcome is known. -/
def microRun (f : Engine → Engine) : Nat → Engine → Engine
  | 0, e => e
  | n + 1, e => if e.pending.isSome then e else microRun f n (f e)

/-- More microsteps than any command takes (assumption 20). -/
def microFuel : Nat := 2 ^ 80

/-- The microsequence run to its end. -/
def microFinish (f : Engine → Engine) (e : Engine) : Engine := microRun f microFuel e

/-- A unit's answer as the command's outcome: its value is the result, and the one failure is NO_INVERSE
(41_number_theory.md R130). -/
def settle (r : Engine × UnitResult) : Engine :=
  match r.2 with
  | .running => r.1
  | .ok v => { r.1 with pending := some (.okRes v) }
  | .fail => { r.1 with pending := some (.err .noInverse) }

/-- The engine when the command in flight has ended: the FSM returns to `K_IDLE` (42_key_derivation.md R172), and every working
register takes what `draw` makes of it: between commands their values are unspecified (10_state.md R46, assumption 12). -/
def Engine.retire (draw : Config.WorkingReg → {w : Nat} → BitVec w → BitVec w) (e : Engine) : Engine :=
  { e with
    kfsm := .kIdle
    acc := draw .acc e.acc
    base := draw .base e.base
    exp := draw .exp e.exp
    ga := draw .ga e.ga
    gb := draw .gb e.gb
    r0 := draw .r0 e.r0
    r1 := draw .r1 e.r1
    t0 := draw .t0 e.t0
    t1 := draw .t1 e.t1
    mu := draw .mu e.mu
    k := draw .k e.k
    x := draw .x e.x
    quo := draw .quo e.quo
    rem := draw .rem e.rem
    kn := draw .kn e.kn
    kphi := draw .kphi e.kphi
    ke := draw .ke e.ke
    kd := draw .kd e.kd }

/-- What the working registers hold once the running command of a state has completed: free values (assumption 12). -/
def State.workingDraw (s : State) (r : Config.WorkingReg) {w : Nat} (last : BitVec w) : BitVec w :=
  Config.workingDraw s.inst s.draws s.lop s.operands r last

/-- A continuing engine step: only hidden registers advance, by a free number of microsteps (40_command_model.md R105,
assumption 3). -/
def State.continueStep (f : Micro) (s : State) : State :=
  { s with
    eng := microRun (f s.operands) (Config.iterationDraw s.inst s.draws s.lop s.operands) s.eng
    stepsLeft := s.stepsLeft - 1
    draws := s.draws + 1 }

/-- The completing engine step: the microsequence comes to its end and its outcome is published in one event (R106, R107);
the working registers are left with free values (assumption 12). -/
def State.completeStep (f : Micro) (s : State) : State :=
  let e := microFinish (f s.operands) s.eng
  match e.pending with
  | some o => { s with eng := e.retire s.workingDraw, stepsLeft := 0 }.publish o
  | none => { s with eng := e }

/-- One engine step of a command with the microsequence `f` (40_command_model.md R104, R105). -/
def engineStep (f : Micro) (s : State) : Answer :=
  if !s.busy then .next s
  else if 1 < s.stepsLeft then .next (s.continueStep f)
  else .next (s.completeStep f)

/-- One engine step of a command that completes at its first engine step, whatever `LATENCY` (R105). -/
def engineFirstStep (f : Micro) (s : State) : Answer :=
  if !s.busy then .next s else .next (s.completeStep f)

/-! ### Reset -/

/-- Assertion of `rst_n` (70_reset_and_hazards.md R260, R261): every register takes its reset value at once. The events to
come, the draw counter and the instance's number are not the core's. -/
def State.enterReset (s : State) : State :=
  { State.reset with rst := .held, draws := s.draws, inst := s.inst, events := s.events }

/-- Release of `rst_n`: the core leaves reset at the next edge (R260). -/
def State.releaseReset (s : State) : State := { s with rst := .released }

/-- The first edge after the release of `rst_n`: the core leaves reset, and a transaction at this edge is ignored (R260). -/
def State.leaveReset (s : State) : State := { s with rst := .running }

/-! ### The read value of each register (44_host_access.md R200-R209) -/

/-- `readval(addr)` of a legal read at a byte offset that is a multiple of 8 (44_host_access.md R201-R209). -/
def State.readval (s : State) (addr : BitVec 7) : Word :=
  match addr.toNat with
  | 0x00 => Config.idValue
  | 0x08 => s.ctrlWord
  | 0x10 => s.statusWord
  | 0x20 => s.opa
  | 0x28 => s.opb
  | 0x30 => s.opm
  | 0x38 => s.res
  | 0x40 => s.keyN
  | 0x48 => s.keyPhi
  | 0x50 => s.keyE
  | 0x58 => s.keyD
  | _ => 0

/-- The register space seen as bytes, little-endian (20_memory.md R66): byte `k` of the register at `off` is the byte at
`off + k`. -/
def State.registerByte (s : State) (addr : BitVec 7) : BitVec 8 :=
  (s.readval (addr &&& 0x78)).extractLsb' (8 * (addr &&& 7).toNat) 8

end Sys2Proof.Machine
end

