-- ==== Sys2Proof/Machine/Cipher.lean ====
section
/-! DEFINITION. The cipher commands ENCRYPT and DECRYPT (43_cipher.md). -/

namespace Sys2Proof.Machine

/-- `modexp` under the key: NO_KEY while no key is valid, else `modexp(value, exponent, KEY_N)` (R190, R193). -/
def cipherMicro (exponent : Word) (o : Operands) (e : Engine) : Engine :=
  if !o.keyValid then { e with pending := some (.err .noKey) }
  else settle (modexpStep o.a exponent o.keyN e)

/-- ENCRYPT: the exponent is `KEY_E` (R190). -/
def microEncrypt (o : Operands) (e : Engine) : Engine := cipherMicro o.keyE o e

/-- DECRYPT: the exponent is `KEY_D` (R193). -/
def microDecrypt (o : Operands) (e : Engine) : Engine := cipherMicro o.keyD o e

/-- An engine step of ENCRYPT (R190). -/
def execEncrypt (s : State) : Answer := engineStep microEncrypt s

/-- An engine step of DECRYPT (R193). -/
def execDecrypt (s : State) : Answer := engineStep microDecrypt s

end Sys2Proof.Machine
end

