-- ==== Sys2Proof/Machine/HostAccess.lean ====
section
/-! DEFINITION. The register transactions (44_host_access.md R200-R209). A meaning gives the effect on the registers and the
response of the port. -/

namespace Sys2Proof.Machine

/-- Read of `ID` (R201). -/
def execRdId (s : State) : Answer := answerRead (s.readval 0x00) s

/-- Write of `ID`: ignored (R201). -/
def execWrId (_ : Word) (s : State) : Answer := answerWrite s

/-- Read of `CTRL` (R202). -/
def execRdCtrl (s : State) : Answer := answerRead (s.readval 0x08) s

/-- Write of `CTRL`: bits 2:0 are stored, the others ignored (R202). -/
def execWrCtrl (v : Word) (s : State) : Answer := answerWrite { s with ctrl := v.extractLsb' 0 3 }

/-- Read of `STATUS` (R203). -/
def execRdStatus (s : State) : Answer := answerRead (s.readval 0x10) s

/-- Write of `STATUS`: W1C of DONE, ERR and OVR (R204). -/
def execWrStatus (v : Word) (s : State) : Answer := answerWrite (s.w1c v)

/-- Read of `CMD` (R205). -/
def execRdCmd (s : State) : Answer := answerRead (s.readval 0x18) s

/-- Write of `CMD`: a command request, accepted or dropped (R205, 40_command_model.md R100, R101). -/
def execWrCmd (w : Word) (s : State) : Answer := answerWrite (s.requestCommand w)

/-- Read of `OPA` (R206). -/
def execRdOpa (s : State) : Answer := answerRead (s.readval 0x20) s

/-- Write of `OPA`, at any time (R206). -/
def execWrOpa (v : Word) (s : State) : Answer := answerWrite { s with opa := v }

/-- Read of `OPB` (R206). -/
def execRdOpb (s : State) : Answer := answerRead (s.readval 0x28) s

/-- Write of `OPB`, at any time (R206). -/
def execWrOpb (v : Word) (s : State) : Answer := answerWrite { s with opb := v }

/-- Read of `OPM` (R206). -/
def execRdOpm (s : State) : Answer := answerRead (s.readval 0x30) s

/-- Write of `OPM`, at any time (R206). -/
def execWrOpm (v : Word) (s : State) : Answer := answerWrite { s with opm := v }

/-- Read of `RES` (R207). -/
def execRdRes (s : State) : Answer := answerRead (s.readval 0x38) s

/-- Write of `RES`: ignored (R207). -/
def execWrRes (_ : Word) (s : State) : Answer := answerWrite s

/-- Read of `KEY_N` (R208). -/
def execRdKeyN (s : State) : Answer := answerRead (s.readval 0x40) s

/-- Write of `KEY_N`: ignored (R208). -/
def execWrKeyN (_ : Word) (s : State) : Answer := answerWrite s

/-- Read of `KEY_PHI` (R208). -/
def execRdKeyPhi (s : State) : Answer := answerRead (s.readval 0x48) s

/-- Write of `KEY_PHI`: ignored (R208). -/
def execWrKeyPhi (_ : Word) (s : State) : Answer := answerWrite s

/-- Read of `KEY_E` (R208). -/
def execRdKeyE (s : State) : Answer := answerRead (s.readval 0x50) s

/-- Write of `KEY_E`: ignored (R208). -/
def execWrKeyE (_ : Word) (s : State) : Answer := answerWrite s

/-- Read of `KEY_D` (R208). -/
def execRdKeyD (s : State) : Answer := answerRead (s.readval 0x58) s

/-- Write of `KEY_D`: ignored (R208). -/
def execWrKeyD (_ : Word) (s : State) : Answer := answerWrite s

/-- Read of a reserved offset: 0 (R209, 20_memory.md R65). -/
def execRdReserved (s : State) : Answer := answerRead 0 s

/-- Write of a reserved offset: ignored (R209, 20_memory.md R65). -/
def execWrReserved (_ : Word) (s : State) : Answer := answerWrite s

/-- A malformed transaction: the error response and no effect (R200, 20_memory.md R64). -/
def execBusError (s : State) : Answer := answerBusError s

end Sys2Proof.Machine
end

