-- ==== Sys2Proof/Machine/Illegal.lean ====
section
/-! DEFINITION. The illegal command words (30_encoding.md R85): accepted like any other, and completed with ILLEGAL_CMD at
the first engine step. -/

namespace Sys2Proof.Machine

/-- An illegal word: `raise Error(ILLEGAL_CMD)` (R85). -/
def microIllegal (_ : Operands) (e : Engine) : Engine := { e with pending := some (.err .illegalCmd) }

/-- The engine step of the word 0 (R85). -/
def execIllegalOp0 (s : State) : Answer := engineFirstStep microIllegal s

/-- The engine step of the words 0x8 to 0xF (R85). -/
def execIllegalOp8F (s : State) : Answer := engineFirstStep microIllegal s

/-- The engine step of a word with a nonzero reserved field (R85). -/
def execIllegalRsvd (s : State) : Answer := engineFirstStep microIllegal s

end Sys2Proof.Machine
end

