-- ==== Sys2Proof/Machine/KeyDerivation.lean ====
section
/-! DEFINITION. KEYGEN and `key_derivation_fsm` (42_key_derivation.md R160-R175). -/

namespace Sys2Proof.Machine

/-- `K_CHECK`: KEY_LOCKED, then INVALID_FACTOR (R161, R162). -/
def keygenCheck (p q : Word) (keyValid : Bool) (e : Engine) : Engine :=
  if keyValid then { e with kfsm := .kErr .keyLocked }
  else if p.toNat < 2 ∨ q.toNat < 2 ∨ p = q then { e with kfsm := .kErr .invalidFactor }
  else { e with kfsm := .kMul }

/-- `K_MUL`: the exact product at 2W bits, ARITH_OVERFLOW, the modulus and the totient (R163, R164). -/
def keygenMul (p q : Word) (e : Engine) : Engine :=
  let e' := { e with x := wideProduct p q }
  if 2 ^ 64 ≤ p.toNat * q.toNat then { e' with kfsm := .kErr .arithOverflow }
  else
    { e' with
      kn := BitVec.ofNat 64 (p.toNat * q.toNat)
      kphi := BitVec.ofNat 64 ((p.toNat - 1) * (q.toNat - 1))
      kfsm := .kEinit }

/-- `K_EINIT`: `KE <- 3` (R165). -/
def keygenEinit (e : Engine) : Engine := { e with ke := 3, kfsm := .kEgcd, unit := .load }

/-- `K_EGCD`: `gcd_unit` on `(KE, KPHI)` to its end (R172). -/
def keygenEgcd (e : Engine) : Engine :=
  match gcdStep e.ke e.kphi e with
  | (e', .running) => e'
  | (e', _) => { e' with kfsm := .kEtest, unit := .load }

/-- `K_ETEST`: the gcd, left in `GA`, is 1 or the next candidate is taken, up to `E_SEARCH_LIMIT` (R165, R166). -/
def keygenEtest (e : Engine) : Engine :=
  if e.ga = 1 then { e with kfsm := .kDinv, unit := .load }
  else
    let e' := { e with ke := e.ke + 2 }
    if Config.eSearchLimit < e'.ke.toNat then { e' with kfsm := .kErr .eNotFound }
    else { e' with kfsm := .kEgcd, unit := .load }

/-- `K_DINV`: `modinv_engine` on `(KE, KPHI)` to its end; `KD <-` result (R167, R172). The unit always finds an inverse
here (R167); the table has no other way out of the state, so without one `KD` would keep its value (assumption 14). -/
def keygenDinv (e : Engine) : Engine :=
  match modinvStep e.ke e.kphi e with
  | (e', .running) => e'
  | (e', .ok d) => { e' with kd := d, kfsm := .kCommit }
  | (e', .fail) => { e' with kfsm := .kCommit }

/-- KEYGEN: one microstep of `key_derivation_fsm` (R172). `K_COMMIT` and `K_ERR` find the outcome; the completing step
publishes it and returns the FSM to `K_IDLE`. -/
def microKeygen (o : Operands) (e : Engine) : Engine :=
  match e.kfsm with
  | .kIdle => e
  | .kCheck => keygenCheck o.a o.b o.keyValid e
  | .kMul => keygenMul o.a o.b e
  | .kEinit => keygenEinit e
  | .kEgcd => keygenEgcd e
  | .kEtest => keygenEtest e
  | .kDinv => keygenDinv e
  | .kCommit => { e with pending := some (.okKey e.kn e.kphi e.ke e.kd) }
  | .kErr code => { e with pending := some (.err code) }

/-- An engine step of KEYGEN (R160). -/
def execKeygen (s : State) : Answer := engineStep microKeygen s

end Sys2Proof.Machine
end

