-- ==== Sys2Proof/Machine/NumberTheory.lean ====
section
/-! DEFINITION. The number-theory commands GCD, MODINV, MODMUL and MODEXP (41_number_theory.md). -/

namespace Sys2Proof.Machine

/-- GCD: `complete(gcd(L[A], L[B]))` (R123). -/
def microGcd (o : Operands) (e : Engine) : Engine := settle (gcdStep o.a o.b e)

/-- MODINV: ZERO_MODULUS, then `modinv(L[A], L[M])` (R130, R131). -/
def microModinv (o : Operands) (e : Engine) : Engine :=
  if o.m = 0 then { e with pending := some (.err .zeroModulus) }
  else settle (modinvStep o.a o.m e)

/-- The operands of MODMUL reduced and multiplied: `X <- a' * b'` (R140), with the constants of `barrett_reduce`.
DESIGN CHOICE: `div_unit` computes `MU` first, then reduces a, then b, so its registers are left with b's reduction (assumption
23). -/
def modmulLoad (a b m : Word) (e : Engine) : Engine :=
  let e' := divUnit b m (divUnit a m (barrettSetup m e))
  { e' with x := wideProduct (red a m) (red b m), unit := .loop }

/-- MODMUL: ZERO_MODULUS, then `barrett(a' * b', L[M])` (R140). -/
def microModmul (o : Operands) (e : Engine) : Engine :=
  if o.m = 0 then { e with pending := some (.err .zeroModulus) }
  else
    match e.unit with
    | .load => modmulLoad o.a o.b o.m e
    | .loop => { e with pending := some (.okRes (barrettReduce e o.m e.x)) }

/-- MODEXP: ZERO_MODULUS, then `modexp(L[A], L[B], L[M])` (R150). -/
def microModexp (o : Operands) (e : Engine) : Engine :=
  if o.m = 0 then { e with pending := some (.err .zeroModulus) }
  else settle (modexpStep o.a o.b o.m e)

/-- An engine step of GCD (R123). -/
def execGcd (s : State) : Answer := engineStep microGcd s

/-- An engine step of MODINV (R130). -/
def execModinv (s : State) : Answer := engineStep microModinv s

/-- An engine step of MODMUL (R140). -/
def execModmul (s : State) : Answer := engineStep microModmul s

/-- An engine step of MODEXP (R150). -/
def execModexp (s : State) : Answer := engineStep microModexp s

end Sys2Proof.Machine
end

