-- ==== Sys2Proof/Machine/Dispatch.lean ====
section
/-! DEFINITION. The dispatch: one arm per instruction. -/

namespace Sys2Proof.Machine

def exec (i : Instr) (s : State) : Host.Outcome State Fault Refusal :=
  match i with
  | .gcd => Sys2Proof.Machine.execGcd s
  | .modinv => Sys2Proof.Machine.execModinv s
  | .modmul => Sys2Proof.Machine.execModmul s
  | .modexp => Sys2Proof.Machine.execModexp s
  | .keygen => Sys2Proof.Machine.execKeygen s
  | .encrypt => Sys2Proof.Machine.execEncrypt s
  | .decrypt => Sys2Proof.Machine.execDecrypt s
  | .illegalOp0 => Sys2Proof.Machine.execIllegalOp0 s
  | .illegalOp8F _ => Sys2Proof.Machine.execIllegalOp8F s
  | .illegalRsvd _ _ => Sys2Proof.Machine.execIllegalRsvd s
  | .rdId => Sys2Proof.Machine.execRdId s
  | .wrId v => Sys2Proof.Machine.execWrId v s
  | .rdCtrl => Sys2Proof.Machine.execRdCtrl s
  | .wrCtrl v => Sys2Proof.Machine.execWrCtrl v s
  | .rdStatus => Sys2Proof.Machine.execRdStatus s
  | .wrStatus v => Sys2Proof.Machine.execWrStatus v s
  | .rdCmd => Sys2Proof.Machine.execRdCmd s
  | .wrCmd w => Sys2Proof.Machine.execWrCmd w s
  | .rdOpa => Sys2Proof.Machine.execRdOpa s
  | .wrOpa v => Sys2Proof.Machine.execWrOpa v s
  | .rdOpb => Sys2Proof.Machine.execRdOpb s
  | .wrOpb v => Sys2Proof.Machine.execWrOpb v s
  | .rdOpm => Sys2Proof.Machine.execRdOpm s
  | .wrOpm v => Sys2Proof.Machine.execWrOpm v s
  | .rdRes => Sys2Proof.Machine.execRdRes s
  | .wrRes v => Sys2Proof.Machine.execWrRes v s
  | .rdKeyN => Sys2Proof.Machine.execRdKeyN s
  | .wrKeyN v => Sys2Proof.Machine.execWrKeyN v s
  | .rdKeyPhi => Sys2Proof.Machine.execRdKeyPhi s
  | .wrKeyPhi v => Sys2Proof.Machine.execWrKeyPhi v s
  | .rdKeyE => Sys2Proof.Machine.execRdKeyE s
  | .wrKeyE v => Sys2Proof.Machine.execWrKeyE v s
  | .rdKeyD => Sys2Proof.Machine.execRdKeyD s
  | .wrKeyD v => Sys2Proof.Machine.execWrKeyD v s
  | .rdReserved _ => Sys2Proof.Machine.execRdReserved s
  | .wrReserved _ v => Sys2Proof.Machine.execWrReserved v s
  | .busError _ _ _ => Sys2Proof.Machine.execBusError s

end Sys2Proof.Machine
end

