-- ==== Sys2Proof/Machine/Events.lean ====
section
/-! DEFINITION. What each event does (40_command_model.md R110, 70_reset_and_hazards.md R260, R261), and which instruction it
runs: a transaction runs the instruction it encodes, an engine step the latched command. -/

namespace Sys2Proof.Machine

/-- The instruction the engine runs: the latched command (10_state.md R44). The failing word of an illegal command is not
kept (60_exceptions.md R231), so its row is chosen by `LASTOP`; the three rows have one effect (assumption 8). -/
def State.engineInstr (s : State) : Instr :=
  match s.lop with
  | .gcd => .gcd
  | .modinv => .modinv
  | .modmul => .modmul
  | .modexp => .modexp
  | .keygen => .keygen
  | .encrypt => .encrypt
  | .decrypt => .decrypt
  | .illegal =>
    if s.lastop = 0 then .illegalOp0
    else if 8 ≤ s.lastop.toNat then .illegalOp8F s.lastop
    else .illegalRsvd 1 s.lastop

/-- What an event does to a core that is out of reset (R110). -/
def runningEvent (e : Event) (s : State) : Answer :=
  match e with
  | .transaction t => exec (decodeTransaction t) s
  | .engineStep => exec s.engineInstr s
  | .idleEdge => exec s.noResponse.engineInstr s.noResponse
  | .resetAssert => .next s.enterReset
  | .resetRelease => .next s

/-- What an event does while `rst_n` is low: requests and edges are ignored (70_reset_and_hazards.md R260). -/
def heldEvent (e : Event) (s : State) : State :=
  match e with
  | .transaction _ | .engineStep | .idleEdge => s
  | .resetAssert => s.enterReset
  | .resetRelease => s.releaseReset

/-- What an event does after the release of `rst_n`, before the core has left reset: the next edge leaves reset, and a
transaction at that edge is ignored (R260). -/
def releasedEvent (e : Event) (s : State) : State :=
  match e with
  | .transaction _ | .idleEdge => s.leaveReset
  | .engineStep | .resetRelease => s
  | .resetAssert => s.enterReset

/-- What an event does before the first reset: only reset gives the core a state (R262, assumption 11). -/
def beforeFirstEvent (e : Event) (s : State) : Answer :=
  match e with
  | .resetAssert => .next s.enterReset
  | .transaction _ | .engineStep | .idleEdge | .resetRelease => .fault .beforeFirstReset

/-- What an event does. -/
def handleEvent (e : Event) (s : State) : Answer :=
  match s.rst with
  | .beforeFirst => beforeFirstEvent e s
  | .held => .next (heldEvent e s)
  | .released => .next (releasedEvent e s)
  | .running => runningEvent e s

/-- The next event: the first of the list, or an edge without a request when nothing is presented (assumption 5). -/
def State.nextEvent (s : State) : Event :=
  match s.events with
  | [] => .idleEdge
  | e :: _ => e

/-- The state once the next event has been taken from the list. -/
def State.popEvent (s : State) : State := { s with events := s.events.tail }

/-- The state in which the next event is `e`. -/
def State.pushEvent (s : State) (e : Event) : State := { s with events := e :: s.events }

/-- The state in which the next step runs an encoded instruction: a transaction is presented at the next edge; a command word
has been accepted, its engine step comes next and completes it (assumption 6). -/
def State.present (s : State) : Encoded → State
  | .transaction t => { s with rst := .running }.pushEvent (.transaction t)
  | .commandWord w => { s.accept w with rst := .running, stepsLeft := 1 }.pushEvent .engineStep

end Sys2Proof.Machine
end

