-- ==== Sys2Proof/Machine/Step.lean ====
section
/-! DEFINITION. One step of the machine: the next event (40_command_model.md R110). -/

namespace Sys2Proof.Machine

/-- One step: the next event, taken from the list, happens. -/
def step (s : State) : Host.Outcome State Fault Refusal := handleEvent s.nextEvent s.popEvent

/-- The state in which the next step runs the instruction of an opcode-table word; unchanged where the table has no such
word. -/
def State.withFetchWord (s : State) (nbits w : Nat) : State :=
  match encodedOfTableWord nbits w with
  | some c => s.present c
  | none => s

end Sys2Proof.Machine
end

