-- ==== Sys2Proof/Machine/System.lean ====
section
/-! DEFINITION. Several instances of the core in one system (60_exceptions.md R248, R249) and the system addresses that reach
them (20_memory.md R61). -/

namespace Sys2Proof.Machine

/-- The instances of a system: each has its own state and none is shared (R249). -/
structure System where
  cores : List State
  deriving DecidableEq, Repr

/-- The system right after reset: `N_INST` instances, each with a number of its own, so that their free values are unrelated (R249,
assumption 24). -/
def System.reset : System :=
  { cores := (List.range Config.instanceCount).map fun i => { State.reset with inst := i } }

/-- Each instance draws its free values from its own stream (assumption 24). -/
def System.Numbered (y : System) : Prop := ∀ (i : Nat) (s : State), y.cores[i]? = some s → s.inst = i

/-- The byte offset within an instance that a system address reaches, if it lies in the instance's register space: `BASE_ADDR +
off` reaches offset `off` (R61). -/
def offsetOf (inst addr : Nat) : Option (BitVec 7) :=
  if Config.baseAddr inst ≤ addr ∧ addr < Config.baseAddr inst + Config.registerSpaceBytes then
    some (BitVec.ofNat 7 (addr - Config.baseAddr inst))
  else none

/-- The instance that a system address reaches, and the offset within it. DESIGN CHOICE: where the pages of several instances
coincide, the one with the lowest number (assumption 25). -/
def System.select (y : System) (addr : Nat) : Option (Nat × BitVec 7) :=
  (List.range y.cores.length).findSome? fun i => (offsetOf i addr).map fun off => (i, off)

/-- An event happens to one instance; the others take no part in it (R249). -/
def System.happen (y : System) (inst : Nat) (e : Event) : Host.Outcome System Fault Refusal :=
  match y.cores[inst]? with
  | none => .next y
  | some s =>
    match handleEvent e s with
    | .next s' => .next { y with cores := y.cores.set inst s' }
    | .fault r => .fault r
    | .refused r => .refused r

end Sys2Proof.Machine
end

