-- ==== Sys2Proof/Machine/Cycle.lean ====
section
/-! DEFINITION. One edge of `clk` (10_state.md R22, 20_memory.md R70, 40_command_model.md R105): the host transaction first, the
engine step second. The clocked hardware is one schedule of the events of R110. -/

namespace Sys2Proof.Machine

/-- One answer after another, stopping at a fault or a refusal. -/
def andThen (a : Answer) (f : State → Answer) : Answer :=
  match a with
  | .next s => f s
  | .fault r => .fault r
  | .refused r => .refused r

/-- The events of one rising edge with the port inputs `req` (`none`: `reg_req = 0`). A command accepted at this edge takes its
first engine step at the next one (R105), so an edge with a transaction holds an engine step only if the core was busy
before it. -/
def edgeEvents (req : Option Transaction) (s : State) : List Event :=
  match req with
  | none => [.idleEdge]
  | some t => if s.busy then [.transaction t, .engineStep] else [.transaction t]

/-- One rising edge of `clk`. -/
def clockEdge (req : Option Transaction) (s : State) : Answer :=
  match req with
  | none => handleEvent .idleEdge s
  | some t =>
    if s.busy then andThen (handleEvent (.transaction t) s) (handleEvent .engineStep)
    else handleEvent (.transaction t) s

/-- Rising edges of `clk` without a request, one after another. -/
def idleEdges : Nat → State → Answer
  | 0, s => .next s
  | n + 1, s => andThen (clockEdge none s) (idleEdges n)

end Sys2Proof.Machine
end

