-- ==== Sys2Proof/Machine/Outcome.lean ====
section
/-! DEFINITION. The outcome function (40_command_model.md R103): what each command's microsequence comes to. -/

namespace Sys2Proof.Machine

/-- The microsequence a latched command runs. -/
def microOf : Command → Micro
  | .gcd => microGcd
  | .modinv => microModinv
  | .modmul => microModmul
  | .modexp => microModexp
  | .keygen => microKeygen
  | .encrypt => microEncrypt
  | .decrypt => microDecrypt
  | .illegal => microIllegal

/-- The outcome of a command on its operands (R103), run on engine registers that hold `e`. -/
def outcomeFrom (e : Engine) (c : Command) (o : Operands) : Option CmdOutcome :=
  (microFinish (microOf c o) (e.start c)).pending

/-- The outcome of a command on its operands (R103): it does not depend on what the working registers hold (10_state.md
R46), so they are taken at their reset values. -/
def outcome (c : Command) (o : Operands) : Option CmdOutcome := outcomeFrom Engine.reset c o

end Sys2Proof.Machine
end

