-- ==== Sys2Proof/Safety.lean ====
section
/-! DEFINITION. What a sound state of the core is: the invariants of 10_state.md, 40_command_model.md and
42_key_derivation.md, in the terms the statements use. -/

namespace Sys2Proof.Machine

/-- The rules on the flags, the codes, the port, the FSM and reset that hold between any two events. -/
structure State.StatusInv (s : State) : Prop where
  /-- `DONE` and `ERR` are never both 1 (10_state.md R34). -/
  notBoth : ¬(s.done = true ∧ s.err = true)
  /-- The flags and code that acceptance clears stay clear in the BUSY window (40_command_model.md R101). -/
  busyClear : s.busy = true → s.done = false ∧ s.err = false ∧ s.errcode = 0
  /-- After a success there is no code (10_state.md R30). -/
  doneCode : s.done = true → s.errcode = 0
  /-- With `ERR` there is a code (10_state.md R34). -/
  errCode : s.err = true → s.errcode ≠ 0
  /-- Codes 0x09-0xFF are never produced (60_exceptions.md R230). -/
  codeRange : s.errcode.toNat ≤ 8
  /-- `LATENCY` is at least 1 (40_command_model.md R105). -/
  busySteps : s.busy = true → 1 ≤ s.stepsLeft
  /-- An illegal command completes at its first engine step (R105). -/
  illegalFirst : s.busy = true → s.lop = .illegal → s.stepsLeft = 1
  /-- `L[OP]` names the command whose opcode `LASTOP` shows (10_state.md R44). -/
  latchedOp : s.lop ≠ .illegal → s.lop = decodeOp (s.lastop.setWidth 64)
  /-- When `reg_ack = 0`, `reg_rdata` and `reg_err` are 0, and an error response carries no data (10_state.md R21, R22). -/
  response : (s.ack = false → s.rdata = 0 ∧ s.rerr = false) ∧ (s.rerr = true → s.rdata = 0)
  /-- The FSM is in `K_IDLE` whenever no KEYGEN runs (42_key_derivation.md R172). -/
  fsmIdle : ¬(s.busy = true ∧ s.lop = .keygen) → s.eng.kfsm = .kIdle
  /-- While `KEY_VALID = 0`, all four key registers are 0 (10_state.md R42). -/
  noKey : s.keyValid = false → s.keyN = 0 ∧ s.keyPhi = 0 ∧ s.keyE = 0 ∧ s.keyD = 0
  /-- The core has been reset (70_reset_and_hazards.md R262). -/
  wasReset : s.rst ≠ .beforeFirst
  /-- While it is in reset every register holds its reset value (70_reset_and_hazards.md R260, R261); the working registers,
  which 10_state.md R48 leaves unspecified, and the model's own fields hold those the model chose (assumptions 1, 4). -/
  inReset : s.rst ≠ .running →
    s = { State.reset with rst := s.rst, draws := s.draws, inst := s.inst, events := s.events }

/-- The key that two factors derive (42_key_derivation.md R160-R171): n, phi, the least odd exponent from 3 on that is coprime to phi,
and its inverse. -/
structure KeyPair (p q n phi e d : Nat) : Prop where
  /-- The factors passed the checks (R162, R163). -/
  factors : 2 ≤ p ∧ 2 ≤ q ∧ p ≠ q ∧ p * q < 2 ^ 64
  /-- `n = p * q` (R164). -/
  modulus : n = p * q
  /-- `phi = (p - 1) * (q - 1)` (R164). -/
  totient : phi = (p - 1) * (q - 1)
  /-- The exponent is odd, at least 3 and coprime to phi (R165). -/
  exponent : 3 ≤ e ∧ e % 2 = 1 ∧ Nat.gcd e phi = 1
  /-- No smaller candidate is (R165). -/
  least : ∀ c, 3 ≤ c → c < e → c % 2 = 1 → Nat.gcd c phi ≠ 1
  /-- The inverse of the exponent (R167). -/
  inverse : 1 ≤ d ∧ d < phi ∧ (e * d) % phi = 1

/-- While `KEY_VALID = 1`, the key registers hold the key of two factors (10_state.md R42). -/
def State.KeyInv (s : State) : Prop :=
  s.keyValid = true → ∃ p q, KeyPair p q s.keyN.toNat s.keyPhi.toNat s.keyE.toNat s.keyD.toNat

/-- In the BUSY window the engine stands somewhere in the latched command's microsequence on the latched operands. -/
def State.EngineInv (s : State) : Prop :=
  s.busy = true → ∃ (e : Engine) (n : Nat), s.eng = microRun (microOf s.lop s.operands) n (e.start s.lop)

/-- A sound state. -/
structure State.Inv (s : State) : Prop where
  status : s.StatusInv
  key : s.KeyInv
  engine : s.EngineInv

/-- The running command is `c` and its next engine step is its last one. -/
structure State.Completing (s : State) (c : Command) : Prop where
  busy : s.busy = true
  command : s.lop = c
  last : s.stepsLeft ≤ 1
  engine : s.EngineInv

/-- The running command is `c` and its next engine step is not its last one. -/
structure State.Continuing (s : State) (c : Command) : Prop where
  busy : s.busy = true
  command : s.lop = c
  notLast : 1 < s.stepsLeft

/-- A safe run makes its step. -/
def SafeStep (s : State) : Prop := ∃ t, step s = .next t

end Sys2Proof.Machine
end

