-- ==== Sys2Proof/Certificates/Slice0/Obligations.lean ====
section
/-! DEFINITION. The statements for the provers. Each says what a numbered rule of the spec says the core does. -/

open Sys2Proof Sys2Proof.Machine

/-! ### Encoding -/

/-- 30_encoding.md R83-R86, 44_host_access.md R200-R209: decoding what the encoder writes gives the instruction back, with every
field. -/
def Obligations.DecodeUndoesEncode : Prop :=
  ∀ i : Instr, i.wellFormed = true → decode (encode i) = i

/-- 30_encoding.md R84, 44_host_access.md R200: the decoder is total, and what it reads is well formed. -/
def Obligations.DecodedInstructionsAreWellFormed : Prop :=
  ∀ c : Encoded, (decode c).wellFormed = true

/-- 30_encoding.md R84, R86: no bit of a command word or of a legal write is dropped. -/
def Obligations.EncodeUndoesDecode : Prop :=
  (∀ w : Word, encode (decodeCommandWord w) = .commandWord w) ∧
    ∀ t : Transaction, t.we = true → t.size = 8 → t.addr.toNat % 8 = 0 → encode (decodeTransaction t) = .transaction t

/-- 30_encoding.md R84: exactly seven of the 2^64 words name a command, each the one of the opcode map, and every other word
decodes to Illegal. -/
def Obligations.SevenWordsNameCommands : Prop :=
  ∀ w : Word,
    (decodeOp w = .gcd ↔ w = 1) ∧ (decodeOp w = .modinv ↔ w = 2) ∧ (decodeOp w = .modmul ↔ w = 3) ∧
      (decodeOp w = .modexp ↔ w = 4) ∧ (decodeOp w = .keygen ↔ w = 5) ∧ (decodeOp w = .encrypt ↔ w = 6) ∧
      (decodeOp w = .decrypt ↔ w = 7) ∧ (decodeOp w = .illegal ↔ w = 0 ∨ 8 ≤ w.toNat)

/-- 30_encoding.md R83, R86: words and keys written out from the spec decode to the instructions they stand for. -/
def Obligations.KnownEncodingsDecode : Prop :=
  decode (.commandWord 0x0000000000000004) = .modexp ∧
    decode (.commandWord 0x0000000000000000) = .illegalOp0 ∧
    decode (.commandWord 0x000000000000000F) = .illegalOp8F 0xF ∧
    decode (.commandWord 0x0000000000000015) = .illegalRsvd 1 5 ∧
    decode (.transaction ⟨false, 0x10, 8, 0⟩) = .rdStatus ∧
    decode (.transaction ⟨true, 0x18, 8, 5⟩) = .wrCmd 5 ∧
    decode (.transaction ⟨true, 0x78, 8, 1⟩) = .wrReserved 0x78 1 ∧
    decode (.transaction ⟨true, 0x20, 4, 0⟩) = .busError true 0x20 4

/-! ### Register transactions -/

/-- 20_memory.md R62, R63, R64; 44_host_access.md R200: a transaction of the wrong width or misaligned gets the error response and
changes nothing else; no other transaction gets it. -/
def Obligations.MalformedTransactionsHaveNoEffect : Prop :=
  (∀ (t : Transaction) (s : State), t.size ≠ 8 ∨ t.addr.toNat % 8 ≠ 0 →
      exec (decodeTransaction t) s = .next { s with ack := true, rdata := 0, rerr := true }) ∧
    (∀ (t : Transaction) (s : State), t.size = 8 → t.addr.toNat % 8 = 0 →
      ∃ u, exec (decodeTransaction t) s = .next u ∧ u.ack = true ∧ u.rerr = false) ∧
    ∀ (we : Bool) (addr : BitVec 7) (size : BitVec 4) (s : State),
      exec (.busError we addr size) s = .next { s with ack := true, rdata := 0, rerr := true }

/-- 20_memory.md R65: reserved offsets read as 0, writes to them and to the read-only registers are ignored, a read of CMD returns
0, all without an error response. -/
def Obligations.ReservedAndReadOnlyOffsetsIgnoreWrites : Prop :=
  ∀ (s : State) (addr : BitVec 7) (v : Word),
    exec (.rdReserved addr) s = .next { s with ack := true, rdata := 0, rerr := false } ∧
      exec .rdCmd s = .next { s with ack := true, rdata := 0, rerr := false } ∧
      (∀ i ∈ [Instr.wrReserved addr v, .wrId v, .wrRes v, .wrKeyN v, .wrKeyPhi v, .wrKeyE v, .wrKeyD v],
        exec i s = .next { s with ack := true, rdata := 0, rerr := false }) ∧
      (∀ we, addr.toNat ∈ [0x60, 0x68, 0x70, 0x78] →
        exec (decodeTransaction ⟨we, addr, 8, v⟩) s = .next { s with ack := true, rdata := 0, rerr := false }) ∧
      (addr.toNat ∈ [0x00, 0x38, 0x40, 0x48, 0x50, 0x58] →
        exec (decodeTransaction ⟨true, addr, 8, v⟩) s = .next { s with ack := true, rdata := 0, rerr := false }) ∧
      decodeTransaction ⟨false, 0x18, 8, v⟩ = .rdCmd

/-- 44_host_access.md R201, R206, R207, R208: a read returns the register and changes nothing but the response. -/
def Obligations.RegisterReadsReturnTheirRegister : Prop :=
  ∀ s : State,
    ∀ iv ∈ [(Instr.rdId, (0x000001404D584531 : Word)), (.rdOpa, s.opa), (.rdOpb, s.opb), (.rdOpm, s.opm), (.rdRes, s.res),
        (.rdKeyN, s.keyN), (.rdKeyPhi, s.keyPhi), (.rdKeyE, s.keyE), (.rdKeyD, s.keyD)],
      exec iv.1 s = .next { s with ack := true, rdata := iv.2, rerr := false }

/-- 44_host_access.md R202: CTRL stores bits 2:0 of the data, reads them back zero-extended, and drives irq from then on. -/
def Obligations.ControlRegisterStoresThreeBits : Prop :=
  decodeRead 0x08 = .rdCtrl ∧ (∀ v, decodeWrite 0x08 v = .wrCtrl v) ∧
    ∀ (s : State) (v : Word),
      (∃ u, exec (.wrCtrl v) s = .next u ∧ u = { s with ctrl := u.ctrl, ack := true, rdata := 0, rerr := false } ∧
        u.ctrl.toNat = v.toNat % 8 ∧
        u.irq = ((s.done && v.getLsbD 0) || (s.err && v.getLsbD 1) || (s.ovr && v.getLsbD 2))) ∧
      ∃ u, exec .rdCtrl s = .next u ∧ u = { s with ack := true, rdata := u.rdata, rerr := false } ∧
        u.rdata.toNat = s.ctrl.toNat

/-- 44_host_access.md R203: a read of STATUS shows every field at its place, the reserved bits 0, and clears nothing. -/
def Obligations.StatusReadShowsEveryField : Prop :=
  decodeRead 0x10 = .rdStatus ∧
    ∀ s : State, ∃ u, exec .rdStatus s = .next u ∧ u = { s with ack := true, rdata := u.rdata, rerr := false } ∧
      u.rdata.toNat = s.busy.toNat + 2 * s.done.toNat + 4 * s.err.toNat + 8 * s.ovr.toNat + 16 * s.keyValid.toNat +
        2 ^ 8 * s.errcode.toNat + 2 ^ 16 * s.lastop.toNat

/-- 44_host_access.md R204: a write of STATUS clears each of DONE, ERR and OVR whose bit is 1 in the data, and nothing else; and in
a cycle in which a completion sets DONE or ERR, the set wins. -/
def Obligations.StatusWriteClearsPendingBits : Prop :=
  (∀ v, decodeWrite 0x10 v = .wrStatus v) ∧
    (∀ (s : State) (v : Word),
      exec (.wrStatus v) s = .next { s with
        done := s.done && !v.getLsbD 1
        err := s.err && !v.getLsbD 2
        ovr := s.ovr && !v.getLsbD 3
        ack := true, rdata := 0, rerr := false }) ∧
    ∀ (s : State) (v : Word), s.Inv → s.rst = .running → s.busy = true → s.stepsLeft ≤ 1 →
      ∃ t, clockEdge (some ⟨true, 0x10, 8, v⟩) s = .next t ∧ (t.done = true ∨ t.err = true)

/-- 44_host_access.md R206: a write of an operand register stores the whole word, in a BUSY window too, and the running command
keeps its latched operands. -/
def Obligations.OperandWritesStoreTheWord : Prop :=
  ∀ (s : State) (v : Word),
    exec (.wrOpa v) s = .next { s with opa := v, ack := true, rdata := 0, rerr := false } ∧
      exec (.wrOpb v) s = .next { s with opb := v, ack := true, rdata := 0, rerr := false } ∧
      exec (.wrOpm v) s = .next { s with opm := v, ack := true, rdata := 0, rerr := false }

/-- 20_memory.md R68: a read changes nothing but the response, writes to CTRL, the operands and STATUS are idempotent, and so are
the ignored and the malformed ones; a write to CMD is not: while BUSY is 0 each one starts a command, and a second one in the BUSY window sets OVR. -/
def Obligations.ReadsHaveNoSideEffects : Prop :=
  (∀ (t : Transaction) (s u : State), t.we = false → exec (decodeTransaction t) s = .next u →
      u = { s with ack := u.ack, rdata := u.rdata, rerr := u.rerr }) ∧
    (∀ (s u : State) (v : Word), ∀ i ∈ [Instr.wrCtrl v, .wrOpa v, .wrOpb v, .wrOpm v, .wrStatus v],
      exec i s = .next u → exec i u = .next u) ∧
    (∀ (s u : State) (v : Word) (addr : BitVec 7) (size : BitVec 4),
      ∀ i ∈ [Instr.wrId v, .wrRes v, .wrKeyN v, .wrKeyPhi v, .wrKeyE v, .wrKeyD v, .wrReserved addr v, .busError true addr size],
      exec i s = .next u → exec i u = .next u) ∧
    ∀ (s : State) (w : Word), s.busy = false →
      (∃ u t, exec (.wrCmd w) s = .next u ∧ exec (.wrCmd w) u = .next t ∧ t = { u with ovr := true }) ∧
        ∃ u, exec (.wrCmd w) s = .next u ∧ u.busy = true ∧ u.lop = decodeOp w

/-- 40_command_model.md R100: a CMD write in a BUSY window sets OVR and changes nothing else. -/
def Obligations.CommandWhileBusyIsDropped : Prop :=
  ∀ (s : State) (w : Word), s.busy = true →
    exec (.wrCmd w) s = .next { s with ovr := true, ack := true, rdata := 0, rerr := false }

/-- 40_command_model.md R101: a CMD write while BUSY is 0 is accepted whatever the word; it latches the command and the operands,
records the opcode, clears DONE, ERR and ERRCODE, sets BUSY, and touches nothing else the host can see. The engine starts on the
command, for at least one step, and for exactly one if the word is illegal (R105). -/
def Obligations.CommandWhileIdleIsAccepted : Prop :=
  ∀ (s : State) (w : Word), s.busy = false →
    ∃ u, exec (.wrCmd w) s = .next u ∧
      u = { s with
        lop := decodeOp w
        la := s.opa, lb := s.opb, lm := s.opm
        lastop := w.extractLsb' 0 4
        done := false, err := false, errcode := 0
        busy := true
        eng := u.eng, stepsLeft := u.stepsLeft, draws := u.draws
        ack := true, rdata := 0, rerr := false } ∧
      u.EngineInv ∧ 1 ≤ u.stepsLeft ∧ (decodeOp w = .illegal → u.stepsLeft = 1)

/-- 10_state.md R22, 70_reset_and_hazards.md R276: every transaction is answered at once, whatever BUSY, and an edge without a
request drives no response. -/
def Obligations.PortAnswersEveryTransactionAtOnce : Prop :=
  (∀ (s : State) (t : Transaction), s.rst = .running →
      ∃ u, handleEvent (.transaction t) s = .next u ∧ u.ack = true) ∧
    ∀ (s : State), s.rst = .running →
      ∃ u, handleEvent .idleEdge s = .next u ∧ u.ack = false ∧ u.rdata = 0 ∧ u.rerr = false

/-- 20_memory.md R66: byte k of the register at an offset is bits 8k+7:8k of its value. -/
def Obligations.RegisterBytesAreLittleEndian : Prop :=
  ∀ (s : State) (off k : Nat), off % 8 = 0 → off < 128 → k < 8 →
    (s.registerByte (BitVec.ofNat 7 (off + k))).toNat = (s.readval (BitVec.ofNat 7 off)).toNat / 2 ^ (8 * k) % 2 ^ 8

/-! ### The engine step -/

/-- 40_command_model.md R104: an engine step with BUSY = 0 changes nothing, for every command. -/
def Obligations.IdleEngineStepChangesNothing : Prop :=
  ∀ (s : State) (op : BitVec 4) (rsvd : BitVec 60), s.busy = false →
    ∀ i ∈ [Instr.gcd, .modinv, .modmul, .modexp, .keygen, .encrypt, .decrypt, .illegalOp0, .illegalOp8F op, .illegalRsvd rsvd op],
      exec i s = .next s

/-- 40_command_model.md R105: a continuing step changes no host-visible state. That it takes a draw and counts the latency down is
the model's (assumptions 2, 3). -/
def Obligations.ContinuingStepIsInvisible : Prop :=
  ∀ (s : State) (c : Command), c ≠ .illegal → s.Continuing c →
    ∃ e, exec s.engineInstr s = .next { s with eng := e, stepsLeft := s.stepsLeft - 1, draws := s.draws + 1 }

/-- 41_number_theory.md R123, 40_command_model.md R106: GCD publishes the greatest common divisor of the latched A and B. -/
def Obligations.GcdPublishesTheGcd : Prop :=
  decode (.commandWord 1) = .gcd ∧
    ∀ s : State, s.Completing .gcd →
      ∃ e, exec .gcd s = .next { s with
        res := BitVec.ofNat 64 (Nat.gcd s.la.toNat s.lb.toNat)
        busy := false, done := true, eng := e, stepsLeft := 0 }

/-- 41_number_theory.md R130, R131, R132: MODINV raises ZERO_MODULUS for m = 0, NO_INVERSE for m > 1 and gcd(a mod m, m) not 1, and
else publishes the inverse: the number below m with a * x = 1 mod m, which is 0 for m = 1. -/
def Obligations.ModinvPublishesTheInverse : Prop :=
  decode (.commandWord 2) = .modinv ∧
    ∀ s : State, s.Completing .modinv →
      (s.lm = 0 →
        ∃ e, exec .modinv s = .next { s with
          errcode := 0x02, err := true, busy := false, eng := e, stepsLeft := 0 }) ∧
      (1 < s.lm.toNat → Nat.gcd (s.la.toNat % s.lm.toNat) s.lm.toNat ≠ 1 →
        ∃ e, exec .modinv s = .next { s with
          errcode := 0x03, err := true, busy := false, eng := e, stepsLeft := 0 }) ∧
      (s.lm = 1 ∨ (1 < s.lm.toNat ∧ Nat.gcd (s.la.toNat % s.lm.toNat) s.lm.toNat = 1) →
        ∃ x e, exec .modinv s = .next { s with
            res := x, busy := false, done := true, eng := e, stepsLeft := 0 } ∧
          x.toNat < s.lm.toNat ∧ (s.la.toNat * x.toNat) % s.lm.toNat = 1 % s.lm.toNat)

/-- 41_number_theory.md R140, R131: MODMUL raises ZERO_MODULUS for m = 0 and else publishes the exact product mod m. -/
def Obligations.ModmulPublishesTheProduct : Prop :=
  decode (.commandWord 3) = .modmul ∧
    ∀ s : State, s.Completing .modmul →
      (s.lm = 0 →
        ∃ e, exec .modmul s = .next { s with
          errcode := 0x02, err := true, busy := false, eng := e, stepsLeft := 0 }) ∧
      (s.lm ≠ 0 →
        ∃ e, exec .modmul s = .next { s with
          res := BitVec.ofNat 64 (s.la.toNat * s.lb.toNat % s.lm.toNat)
          busy := false, done := true, eng := e, stepsLeft := 0 })

/-- 41_number_theory.md R150, R149, R131: MODEXP raises ZERO_MODULUS for m = 0 and else publishes the power mod m, with 0 ^ 0 = 1. -/
def Obligations.ModexpPublishesThePower : Prop :=
  decode (.commandWord 4) = .modexp ∧
    ∀ s : State, s.Completing .modexp →
      (s.lm = 0 →
        ∃ e, exec .modexp s = .next { s with
          errcode := 0x02, err := true, busy := false, eng := e, stepsLeft := 0 }) ∧
      (s.lm ≠ 0 →
        ∃ e, exec .modexp s = .next { s with
          res := BitVec.ofNat 64 (s.la.toNat ^ s.lb.toNat % s.lm.toNat)
          busy := false, done := true, eng := e, stepsLeft := 0 })

/-- 42_key_derivation.md R160, R164, R165, R167, R170, R171: KEYGEN on two factors that pass the checks, with no key yet, publishes
their key in one step and leaves RES alone. -/
def Obligations.KeygenDerivesTheKeyOfItsFactors : Prop :=
  decode (.commandWord 5) = .keygen ∧
    ∀ s : State, s.Completing .keygen → s.keyValid = false →
      2 ≤ s.la.toNat → 2 ≤ s.lb.toNat → s.la ≠ s.lb → s.la.toNat * s.lb.toNat < 2 ^ 64 →
      ∃ n phi ex d e, exec .keygen s = .next { s with
          keyN := n, keyPhi := phi, keyE := ex, keyD := d, keyValid := true
          busy := false, done := true, eng := e, stepsLeft := 0 } ∧
        KeyPair s.la.toNat s.lb.toNat n.toNat phi.toNat ex.toNat d.toNat

/-- 42_key_derivation.md R161, R162, R163; 60_exceptions.md R235: KEYGEN raises KEY_LOCKED, else INVALID_FACTOR, else
ARITH_OVERFLOW, and changes no key register. -/
def Obligations.KeygenChecksInOrder : Prop :=
  ∀ s : State, s.Completing .keygen →
    (s.keyValid = true →
      ∃ e, exec .keygen s = .next { s with
        errcode := 0x08, err := true, busy := false, eng := e, stepsLeft := 0 }) ∧
    (s.keyValid = false → s.la.toNat < 2 ∨ s.lb.toNat < 2 ∨ s.la = s.lb →
      ∃ e, exec .keygen s = .next { s with
        errcode := 0x04, err := true, busy := false, eng := e, stepsLeft := 0 }) ∧
    (s.keyValid = false → 2 ≤ s.la.toNat → 2 ≤ s.lb.toNat → s.la ≠ s.lb → 2 ^ 64 ≤ s.la.toNat * s.lb.toNat →
      ∃ e, exec .keygen s = .next { s with
        errcode := 0x05, err := true, busy := false, eng := e, stepsLeft := 0 })

/-- 43_cipher.md R190, R193: ENCRYPT and DECRYPT raise NO_KEY without a key, and else publish the power of the latched A under the
public or the private exponent, mod n. -/
def Obligations.CipherCommandsApplyTheKey : Prop :=
  decode (.commandWord 6) = .encrypt ∧ decode (.commandWord 7) = .decrypt ∧
    (∀ s : State, s.Completing .encrypt → s.keyValid = false →
      ∃ e, exec .encrypt s = .next { s with
        errcode := 0x07, err := true, busy := false, eng := e, stepsLeft := 0 }) ∧
    (∀ s : State, s.Completing .decrypt → s.keyValid = false →
      ∃ e, exec .decrypt s = .next { s with
        errcode := 0x07, err := true, busy := false, eng := e, stepsLeft := 0 }) ∧
    (∀ s : State, s.Completing .encrypt → s.KeyInv → s.keyValid = true →
      ∃ e, exec .encrypt s = .next { s with
        res := BitVec.ofNat 64 (s.la.toNat ^ s.keyE.toNat % s.keyN.toNat)
        busy := false, done := true, eng := e, stepsLeft := 0 }) ∧
    ∀ s : State, s.Completing .decrypt → s.KeyInv → s.keyValid = true →
      ∃ e, exec .decrypt s = .next { s with
        res := BitVec.ofNat 64 (s.la.toNat ^ s.keyD.toNat % s.keyN.toNat)
        busy := false, done := true, eng := e, stepsLeft := 0 }

/-- 30_encoding.md R85, 40_command_model.md R105: an illegal command, whichever row its word is in, raises ILLEGAL_CMD at its first
engine step and changes no register but STATUS. -/
def Obligations.IllegalWordsRaiseIllegalCmd : Prop :=
  (∀ (s : State) (op : BitVec 4) (rsvd : BitVec 60), s.busy = true → s.lop = .illegal → s.EngineInv →
      ∀ i ∈ [Instr.illegalOp0, .illegalOp8F op, .illegalRsvd rsvd op],
        ∃ e, exec i s = .next { s with
          errcode := 0x01, err := true, busy := false, eng := e, stepsLeft := 0 }) ∧
    ∀ (s : State) (w : Word), s.busy = false → w = 0 ∨ 8 ≤ w.toNat →
      ∃ u t, exec (.wrCmd w) s = .next u ∧ u.busy = true ∧ exec u.engineInstr u = .next t ∧
        t = { s with
          lop := .illegal
          la := s.opa, lb := s.opb, lm := s.opm
          lastop := w.extractLsb' 0 4
          done := false, err := true, errcode := 0x01
          busy := false
          eng := t.eng, stepsLeft := t.stepsLeft, draws := t.draws
          ack := true, rdata := 0, rerr := false }

/-- 40_command_model.md R105, R106, R107; 60_exceptions.md R232: all an engine step of a running command does: it continues, or it
publishes one result, or one key, or one error, in one event; a failed command publishes nothing. -/
def Obligations.EngineStepPublishesOneOutcome : Prop :=
  ∀ s : State, s.Inv → s.busy = true →
    ∃ t, exec s.engineInstr s = .next t ∧
      ((1 < s.stepsLeft ∧ t = { s with eng := t.eng, stepsLeft := t.stepsLeft, draws := t.draws }) ∨
        (s.stepsLeft ≤ 1 ∧ s.lop ≠ .keygen ∧
          t = { s with res := t.res, busy := false, done := true, eng := t.eng, stepsLeft := 0 }) ∨
        (s.stepsLeft ≤ 1 ∧ s.lop = .keygen ∧
          t = { s with
            keyN := t.keyN, keyPhi := t.keyPhi, keyE := t.keyE, keyD := t.keyD, keyValid := true
            busy := false, done := true, eng := t.eng, stepsLeft := 0 }) ∨
        (s.stepsLeft ≤ 1 ∧ ∃ code : ErrCode,
          t = { s with errcode := code.code, err := true, busy := false, eng := t.eng, stepsLeft := 0 }))

/-! ### Outcomes -/

/-- 40_command_model.md R103, 10_state.md R46: every command has an outcome for all operands, and it does not depend on what the
working registers held. -/
def Obligations.OutcomeIgnoresTheWorkingRegisters : Prop :=
  ∀ (c : Command) (o : Operands) (e : Engine), (outcome c o).isSome = true ∧ outcomeFrom e c o = outcome c o

/-- 41_number_theory.md R124: gcd(a, 0) is a; gcd(a, b) is gcd(b, a mod b) for b not 0; gcd(a, b) is gcd(b, a). -/
def Obligations.GcdLawsHold : Prop :=
  ∀ o : Operands,
    (o.b = 0 → outcome .gcd o = some (.okRes o.a)) ∧
      (o.b ≠ 0 → outcome .gcd o = outcome .gcd { o with a := o.b, b := o.a % o.b }) ∧
      outcome .gcd o = outcome .gcd { o with a := o.b, b := o.a }

/-- 41_number_theory.md R151: exponent 0 gives 1 for m > 1; exponent 1 gives b mod m; modulus 1 gives 0. -/
def Obligations.ModexpLawsHold : Prop :=
  ∀ o : Operands,
    (o.b = 0 → 1 < o.m.toNat → outcome .modexp o = some (.okRes 1)) ∧
      (o.b = 1 → o.m ≠ 0 → outcome .modexp o = some (.okRes (o.a % o.m))) ∧
      (o.m = 1 → outcome .modexp o = some (.okRes 0))

/-- 41_number_theory.md R139: with the constants of a modulus in place, `barrett_reduce` gives x mod m for x < m * m, and needs at most
two corrections. -/
def Obligations.BarrettReducesExactly : Prop :=
  ∀ (e : Engine) (m : Word) (x : DWord), m ≠ 0 → x.toNat < m.toNat * m.toNat →
    (barrettReduce (barrettSetup m e) m x).toNat = x.toNat % m.toNat ∧
      barrettEstimate (barrettSetup m e).mu.toNat (barrettSetup m e).k.toNat m.toNat x.toNat < 3 * m.toNat

/-- 42_key_derivation.md R166: at W = 64 the search never comes to its cap, and the exponent it finds is at most 59. -/
def Obligations.KeygenSearchStopsBy59 : Prop :=
  ∀ o : Operands,
    outcome .keygen o ≠ some (.err .eNotFound) ∧
      ∀ n phi e d, outcome .keygen o = some (.okKey n phi e d) → e.toNat ≤ 59

/-- 42_key_derivation.md R169: KEYGEN(p, q) and KEYGEN(q, p) give the same key. -/
def Obligations.KeygenIsSymmetric : Prop :=
  ∀ o : Operands, outcome .keygen o = outcome .keygen { o with a := o.b, b := o.a }

/-- 43_cipher.md R191: a message outside [0, n) is reduced, not refused. -/
def Obligations.EncryptReducesItsMessage : Prop :=
  ∀ o : Operands, o.keyValid = true → o.keyN ≠ 0 →
    (∃ v, outcome .encrypt o = some (.okRes v)) ∧ outcome .encrypt o = outcome .encrypt { o with a := o.a % o.keyN }

/-- 43_cipher.md R192: every exponent KEYGEN gives is odd, and under every derived key the messages 0, 1 and n - 1 encrypt to
themselves. -/
def Obligations.EncryptFixesTheEnds : Prop :=
  ∀ (o : Operands) (p q phi : Nat), o.keyValid = true →
    KeyPair p q o.keyN.toNat phi o.keyE.toNat o.keyD.toNat →
    outcome .encrypt { o with a := 0 } = some (.okRes 0) ∧ outcome .encrypt { o with a := 1 } = some (.okRes 1) ∧
      outcome .encrypt { o with a := o.keyN - 1 } = some (.okRes (o.keyN - 1)) ∧
      ∀ (k : Operands) n phi' e d, outcome .keygen k = some (.okKey n phi' e d) → e.toNat % 2 = 1

/-- 43_cipher.md R196: for a key of two distinct primes, decryption undoes encryption and encryption undoes decryption, for every
value in [0, n). With factors that are not prime it fails: for 4 and 9, 2 encrypts to 32, which decrypts to 20 (R168). -/
def Obligations.RsaRoundTrip : Prop :=
  (∀ (o : Operands) (p q phi : Nat), o.keyValid = true → p.Prime → q.Prime →
      KeyPair p q o.keyN.toNat phi o.keyE.toNat o.keyD.toNat →
      ∀ m : Word, m.toNat < o.keyN.toNat →
        (∃ c, outcome .encrypt { o with a := m } = some (.okRes c) ∧
          outcome .decrypt { o with a := c } = some (.okRes m)) ∧
        ∃ c, outcome .decrypt { o with a := m } = some (.okRes c) ∧
          outcome .encrypt { o with a := c } = some (.okRes m)) ∧
    ∃ o : Operands, o.keyValid = true ∧ KeyPair 4 9 o.keyN.toNat 24 o.keyE.toNat o.keyD.toNat ∧
      outcome .encrypt { o with a := 2 } = some (.okRes 32) ∧ outcome .decrypt { o with a := 32 } = some (.okRes 20)

/-! ### The clock -/

/-- 20_memory.md R70, 70_reset_and_hazards.md R271: in one cycle the host transaction comes first. A read sees the state before the
engine step, so that STATUS in the cycle of completion still shows BUSY; a W1C does not clear the bit the completion sets; a CMD write is dropped with OVR. -/
def Obligations.HostGoesFirstInACycle : Prop :=
  ∀ s : State, s.Inv → s.rst = .running → s.busy = true → s.stepsLeft ≤ 1 →
    (∀ (a : BitVec 7) (d : Word), a.toNat % 8 = 0 →
      ∃ t, clockEdge (some ⟨false, a, 8, d⟩) s = .next t ∧ t.rdata = s.readval a ∧ t.busy = false) ∧
      (s.readval 0x10).getLsbD 0 = true ∧
      (∀ v, ∃ t, clockEdge (some ⟨true, 0x10, 8, v⟩) s = .next t ∧ t.busy = false ∧ (t.done = true ∨ t.err = true)) ∧
      ∀ w, ∃ t, clockEdge (some ⟨true, 0x18, 8, w⟩) s = .next t ∧ t.ovr = true ∧ t.busy = false ∧
        (t.done = true ∨ t.err = true) ∧ t.lop = s.lop ∧ t.lastop = s.lastop

/-- 40_command_model.md R105: a command accepted at an edge is still running after it, and a CMD write at the very next edge is
always dropped. -/
def Obligations.CommandRightAfterAcceptanceIsDropped : Prop :=
  ∀ (s : State) (w w' : Word), s.rst = .running → s.busy = false →
    ∃ u t, clockEdge (some ⟨true, 0x18, 8, w⟩) s = .next u ∧ u.busy = true ∧ u.lop = decodeOp w ∧
      clockEdge (some ⟨true, 0x18, 8, w'⟩) u = .next t ∧
      t.ovr = true ∧ t.lop = u.lop ∧ t.lastop = u.lastop ∧ t.la = s.opa ∧ t.lb = s.opb ∧ t.lm = s.opm

/-- 20_memory.md R70, 40_command_model.md R110: an edge of the clock is one interleaving of the events: presenting its events and
running the machine through them gives the edge. -/
def Obligations.ClockEdgeIsAScheduleOfSteps : Prop :=
  ∀ (s : State) (req : Option Transaction),
    Sys2Proof.core.run (edgeEvents req s).length { s with events := edgeEvents req s ++ s.events } = clockEdge req s

/-- 10_state.md R45, 40_command_model.md R102: a write to an operand register or CTRL and an engine step can be exchanged: the running
command does not see it. -/
def Obligations.OperandWritesDoNotReachTheRunningCommand : Prop :=
  ∀ (s : State) (v : Word), ∀ i ∈ [Instr.wrOpa v, .wrOpb v, .wrOpm v, .wrCtrl v],
    andThen (exec i s) (fun u => exec u.engineInstr u) = andThen (exec s.engineInstr s) (fun u => exec i u)

/-- 40_command_model.md R105, 70_reset_and_hazards.md R265: every BUSY window ends: whatever transactions the host presents, once the
core has taken the command's remaining engine steps it has been idle. Finiteness is the draw's (assumption 2). -/
def Obligations.BusyWindowEnds : Prop :=
  ∀ (s : State) (es : List Event), s.Inv → s.rst = .running → s.busy = true →
    (∀ e ∈ es, e ≠ .resetAssert ∧ e ≠ .resetRelease) →
    s.stepsLeft ≤ (es.filter fun e => e == .engineStep || e == .idleEdge).length →
    ∃ k t, k ≤ es.length ∧ Sys2Proof.core.run k { s with events := es } = .next t ∧ State.busy t = false

/-! ### The step -/

/-- 40_command_model.md R110: out of reset, a step whose next event is a transaction runs the instruction it decodes to, in the state
with the event taken. -/
def Obligations.StepRunsTheDecodedTransaction : Prop :=
  ∀ (s : State) (t : Transaction) (es : List Event), s.rst = .running → s.events = .transaction t :: es →
    step s = exec (decodeTransaction t) { s with events := es }

/-- 40_command_model.md R110: out of reset, a step whose next event is an engine step runs the latched command, in the state with the
event taken; with no request at the edge the response is cleared first. With no event left an edge without a request follows
(assumption 5). The illegal rows share one command (assumption 8). -/
def Obligations.StepRunsTheLatchedCommand : Prop :=
  ∀ s : State, s.rst = .running →
    commandOf s.engineInstr = s.lop ∧
      (∀ es, s.events = .engineStep :: es → step s = exec s.engineInstr { s with events := es }) ∧
      (∀ es, s.events = .idleEdge :: es →
        step s = exec s.engineInstr { s with events := es, ack := false, rdata := 0, rerr := false }) ∧
      (s.events = [] → step s = exec s.engineInstr { s with ack := false, rdata := 0, rerr := false })

/-- The model's placement of an instruction (assumptions 6, 7): the next step runs the instruction of the table word, a transaction in
the state as it was, a command word as the latched command at its last engine step. -/
def Obligations.StepRunsTheFetchWord : Prop :=
  ∀ (s : State) (nbits w : Nat) (i : Instr), decodeTableWord nbits w = some i →
    ∃ u, step (s.withFetchWord nbits w) = exec i u ∧
      ((∃ t, i = decodeTransaction t ∧ u = { s with rst := .running }) ∨
        (∃ c, i = decodeCommandWord c ∧ u.busy = true ∧ u.lop = commandOf i ∧ u.stepsLeft = 1 ∧
          u.la = s.opa ∧ u.lb = s.opb ∧ u.lm = s.opm ∧ u.EngineInv))

/-! ### Reset -/

/-- 10_state.md R48, 70_reset_and_hazards.md R261: reset sets every piece of state to its reset value, whatever the core was doing. -/
def Obligations.ResetSetsEveryRegister : Prop :=
  ∀ s : State, s.nextEvent = .resetAssert →
    ∃ t, step s = .next t ∧
      t.ctrl = 0 ∧ t.statusWord = 0 ∧ t.opa = 0 ∧ t.opb = 0 ∧ t.opm = 0 ∧ t.res = 0 ∧
      t.keyN = 0 ∧ t.keyPhi = 0 ∧ t.keyE = 0 ∧ t.keyD = 0 ∧ t.readval 0 = 0x000001404D584531 ∧
      t.seq = .idle ∧ t.eng.kfsm = .kIdle ∧ t.lop = .illegal ∧ t.la = 0 ∧ t.lb = 0 ∧ t.lm = 0 ∧
      t.irq = false ∧ t.ack = false ∧ t.rdata = 0 ∧ t.rerr = false

/-- 70_reset_and_hazards.md R260: while reset is held, transactions and edges do nothing and the outputs are 0; after its release
the next edge leaves reset and ignores its transaction, and the one after that is served. The model does
not count the edges during which reset is held, where R260 asks for two (assumption 10, DESIGN CHOICE). -/
def Obligations.ResetIgnoresTransactions : Prop :=
  ∀ s : State, s.StatusInv → s.rst = .held →
    (s.ack = false ∧ s.rdata = 0 ∧ s.rerr = false ∧ s.irq = false) ∧
      (∀ t, handleEvent (.transaction t) s = .next s) ∧ handleEvent .engineStep s = .next s ∧
      handleEvent .idleEdge s = .next s ∧
      ∃ u v, handleEvent .resetRelease s = .next u ∧ v = { s with rst := .running } ∧
        (∀ t, handleEvent (.transaction t) u = .next v) ∧ handleEvent .idleEdge u = .next v ∧
        ∀ t, handleEvent (.transaction t) v = exec (decodeTransaction t) v

/-- 70_reset_and_hazards.md R262: before the first reset only reset gives the core a state; the model stops on anything else
(assumption 11). -/
def Obligations.OnlyResetEndsTheUnresetState : Prop :=
  ∀ (s : State) (e : Event), s.rst = .beforeFirst →
    (e = .resetAssert → ∃ t, handleEvent e s = .next t ∧ t.rst = .held ∧ t.statusWord = 0) ∧
      (e ≠ .resetAssert → handleEvent e s = .fault .beforeFirstReset)

/-! ### Invariants and whole-machine rules -/

/-- The reset state is sound. -/
def Obligations.ResetStateIsSound : Prop := State.reset.Inv

/-- 10_state.md R22, R30, R34, R42-R44; 42_key_derivation.md R172; 60_exceptions.md R230: every step keeps the rules on the flags,
the codes, the response, the FSM, the keyless key registers and reset. That a core in reset also holds 0 in the working registers,
and the model's own fields at fixed values, is the model's choice (assumptions 1, 4, DESIGN CHOICE). -/
def Obligations.StepKeepsTheStatusRules : Prop :=
  ∀ s t : State, s.StatusInv → step s = .next t → t.StatusInv

/-- 10_state.md R42, 42_key_derivation.md R171: every step keeps a sound state sound: in particular, while KEY_VALID is 1 the key
registers hold the key of two factors. That a core in reset also holds 0 in the working registers, and the model's own
fields at fixed values, is the model's choice (assumptions 1, 4, DESIGN CHOICE). -/
def Obligations.StepKeepsTheStateSound : Prop :=
  ∀ s t : State, s.Inv → step s = .next t → t.Inv

/-- A sound state always makes its step: the core never hangs and never stops. -/
def Obligations.SoundStatesStep : Prop :=
  ∀ s : State, s.Inv → SafeStep s

/-- 10_state.md R36, R41; 42_key_derivation.md R161: once a key is valid only reset changes it, and a key appears only by the completion
of KEYGEN. -/
def Obligations.KeyIsWrittenOncePerReset : Prop :=
  ∀ s t : State, s.Inv → step s = .next t → s.nextEvent ≠ .resetAssert →
    (s.keyValid = true →
      t.keyValid = true ∧ t.keyN = s.keyN ∧ t.keyPhi = s.keyPhi ∧ t.keyE = s.keyE ∧ t.keyD = s.keyD) ∧
      (s.keyValid = false → t.keyValid = true → s.busy = true ∧ s.lop = .keygen ∧ t.busy = false ∧ t.done = true)

/-- 10_state.md R29: the core never changes CTRL itself: only a host write to it, or reset, does. -/
def Obligations.OnlyTheHostChangesControl : Prop :=
  ∀ s t : State, step s = .next t → t.ctrl ≠ s.ctrl →
    s.nextEvent = .resetAssert ∨ ∃ tr v, s.nextEvent = .transaction tr ∧ decodeTransaction tr = .wrCtrl v ∧ t.ctrl = v.extractLsb' 0 3

/-- 10_state.md R27: only the successful completion of GCD, MODINV, MODMUL, MODEXP, ENCRYPT or DECRYPT, or reset, writes RES. -/
def Obligations.OnlyASuccessfulCommandChangesRes : Prop :=
  ∀ s t : State, s.Inv → step s = .next t → t.res ≠ s.res →
    s.nextEvent = .resetAssert ∨
      (s.busy = true ∧ s.lop ≠ .keygen ∧ s.lop ≠ .illegal ∧ t.busy = false ∧ t.done = true)

/-- 10_state.md R35: OVR becomes 1 only by a CMD write in a BUSY window, and 0 only by a STATUS write with bit 3 set or by reset. -/
def Obligations.OverrunIsSetAndClearedByTheHost : Prop :=
  ∀ s t : State, step s = .next t →
    (s.ovr = false → t.ovr = true →
      s.busy = true ∧ ∃ tr w, s.nextEvent = .transaction tr ∧ decodeTransaction tr = .wrCmd w) ∧
      (s.ovr = true → t.ovr = false →
        s.nextEvent = .resetAssert ∨
          ∃ tr v, s.nextEvent = .transaction tr ∧ decodeTransaction tr = .wrStatus v ∧ v.getLsbD 3 = true) ∧
      (∀ tr w, s.rst = .running → s.busy = true → s.nextEvent = .transaction tr → decodeTransaction tr = .wrCmd w →
        t.ovr = true) ∧
      (∀ tr v, s.rst = .running → s.nextEvent = .transaction tr → decodeTransaction tr = .wrStatus v → v.getLsbD 3 = true →
        t.ovr = false) ∧
      (s.nextEvent = .resetAssert → t.ovr = false)

/-- 60_exceptions.md R240, R241: irq is the level of the enabled pending bits; masking clears no pending bit, and enabling a pending
bit raises irq. The line stays high until the host clears a pending bit or an enable, a command is accepted, or reset. -/
def Obligations.InterruptFollowsPendingAndEnables : Prop :=
  (∀ s : State, s.irq = true ↔
      (s.done = true ∧ s.ctrl.getLsbD 0 = true) ∨ (s.err = true ∧ s.ctrl.getLsbD 1 = true) ∨
        (s.ovr = true ∧ s.ctrl.getLsbD 2 = true)) ∧
    (∀ s : State, ∃ t, exec (.wrCtrl 0) s = .next t ∧ t.irq = false ∧ t.done = s.done ∧ t.err = s.err ∧ t.ovr = s.ovr) ∧
    (∀ s : State, ∃ t, exec (.wrCtrl 7) s = .next t ∧ t.irq = (s.done || s.err || s.ovr)) ∧
    ∀ s t : State, step s = .next t → s.irq = true → t.irq = false →
      s.nextEvent = .resetAssert ∨
        ∃ tr, s.nextEvent = .transaction tr ∧
          ((∃ v, decodeTransaction tr = .wrCtrl v) ∨ (∃ v, decodeTransaction tr = .wrStatus v) ∨
            (s.busy = false ∧ ∃ w, decodeTransaction tr = .wrCmd w))

/-- 60_exceptions.md R242: acceptance takes DONE and ERR off the line, and the completion of the command raises it again when the
outcome's enable is set. -/
def Obligations.InterruptFallsAtAcceptanceAndRisesAtCompletion : Prop :=
  (∀ (s : State) (w : Word), s.busy = false → ∃ t, exec (.wrCmd w) s = .next t ∧ t.irq = (s.ovr && s.ovrIe)) ∧
    ∀ s : State, s.Inv → s.busy = true → s.stepsLeft ≤ 1 → s.ovr = false →
      ∃ t, exec s.engineInstr s = .next t ∧ irqRises s t = ((t.done && s.doneIe) || (t.err && s.errIe))

/-! ### The system -/

/-- 60_exceptions.md R249: the instances share no state: what happens to one is what the core does with the event, and every other
instance keeps its state. That each draws its free values from a stream of its own is the model's (assumption 24). -/
def Obligations.InstancesAreIndependent : Prop :=
  System.reset.Numbered ∧
    ∀ (y y' : System) (inst : Nat) (e : Event), y.happen inst e = .next y' →
      y'.cores.length = y.cores.length ∧ (∀ j, j ≠ inst → y'.cores[j]? = y.cores[j]?) ∧
        (∀ s, y.cores[inst]? = some s → ∃ t, handleEvent e s = .next t ∧ y'.cores[inst]? = some t) ∧
        (y.Numbered → y'.Numbered)

/-- 20_memory.md R61: BASE_ADDR is a multiple of 0x80, BASE_ADDR + off reaches offset off, and no other system address reaches the
instance. -/
def Obligations.SystemAddressesReachTheirOffset : Prop :=
  ∀ inst : Nat, Config.baseAddr inst % 0x80 = 0 ∧
    (∀ off, off < 128 → offsetOf inst (Config.baseAddr inst + off) = some (BitVec.ofNat 7 off)) ∧
    ∀ addr off, offsetOf inst addr = some off → addr = Config.baseAddr inst + off.toNat
end

