-- ==== Sys2Proof/Machine/Driver.lean ====
section
/-! DEFINITION. The host driver notation (30_encoding.md R87) and its pseudo-instructions (R88): host software, which reaches
the core only through its transactions. -/

namespace Sys2Proof.Machine

/-- The named registers of 10_state.md R23. -/
inductive Reg where
  | id | ctrl | status | cmd | opa | opb | opm | res | keyN | keyPhi | keyE | keyD
  deriving DecidableEq, Repr

/-- The byte offset of a register, `off(reg)` (R23). -/
def Reg.offset : Reg → BitVec 7
  | .id => 0x00
  | .ctrl => 0x08
  | .status => 0x10
  | .cmd => 0x18
  | .opa => 0x20
  | .opb => 0x28
  | .opm => 0x30
  | .res => 0x38
  | .keyN => 0x40
  | .keyPhi => 0x48
  | .keyE => 0x50
  | .keyD => 0x58

/-- The command mnemonics (R83). -/
inductive Mnemonic where
  | gcd | modinv | modmul | modexp | keygen | encrypt | decrypt
  deriving DecidableEq, Repr

/-- `opcode(MNEM)` (R83, R87). -/
def Mnemonic.opcode : Mnemonic → Word
  | .gcd => 1
  | .modinv => 2
  | .modmul => 3
  | .modexp => 4
  | .keygen => 5
  | .encrypt => 6
  | .decrypt => 7

/-- A value of a statement: a number or a host variable (R87). -/
inductive Value where
  | lit (v : Word)
  | var (x : String)
  deriving DecidableEq, Repr

/-- The base statements of R87, and the label of a line, over a type of labels. -/
inductive Stmt (L : Type) where
  | label (name : L)
  | wr (r : Reg) (v : Value)
  | rd (r : Reg)
  | rdExpect (r : Reg) (v : Value)
  | cmd (m : Mnemonic)
  | busy (target : L)
  | set (x : String) (v : Value)
  | add (x : String) (v : Value)
  | bne (r : Reg) (v : Value) (target : L)
  | goto (target : L)
  deriving DecidableEq, Repr

/-- A statement with its labels renamed. -/
def Stmt.mapLabel {L L' : Type} (f : L → L') : Stmt L → Stmt L'
  | .label name => .label (f name)
  | .wr r v => .wr r v
  | .rd r => .rd r
  | .rdExpect r v => .rdExpect r v
  | .cmd m => .cmd m
  | .busy target => .busy (f target)
  | .set x v => .set x v
  | .add x v => .add x v
  | .bne r v target => .bne r v (f target)
  | .goto target => .goto (f target)

/-- The pseudo-instructions of R88. -/
inductive Pseudo where
  | wait
  | ack
  | gcd (a b : Value)
  | modinv (a m : Value)
  | modmul (a b m : Value)
  | modexp (b e m : Value)
  | keygen (p q : Value)
  | encrypt (m : Value)
  | decrypt (c : Value)
  deriving DecidableEq, Repr

/-- A line of a program as it is written: a base statement, whose labels are names, or a pseudo-instruction. -/
inductive Line where
  | base (st : Stmt String)
  | pseudo (p : Pseudo)
  deriving DecidableEq, Repr

/-- The labels of an expanded program: the names its lines write, and the label of each expansion, which no written line
can name (R88: "local to that expansion"). -/
inductive Label where
  | named (name : String)
  /-- The label `w` of the `WAIT` in the expansion of this line. -/
  | wait (line : Nat)
  deriving DecidableEq, Repr

/-- `WAIT` with its label `w`: `w: RD STATUS` / `BUSY? w` (R88). -/
def expandWait {L : Type} (w : L) : List (Stmt L) := [.label w, .rd .status, .busy w]

/-- The expansion of a pseudo-instruction, with the label its `WAIT` uses (R88). -/
def Pseudo.expand {L : Type} (w : L) : Pseudo → List (Stmt L)
  | .wait => expandWait w
  | .ack => [.wr .status (.lit 0xE)]
  | .gcd a b => [.wr .opa a, .wr .opb b, .cmd .gcd] ++ expandWait w ++ [.rd .res]
  | .modinv a m => [.wr .opa a, .wr .opm m, .cmd .modinv] ++ expandWait w ++ [.rd .res]
  | .modmul a b m => [.wr .opa a, .wr .opb b, .wr .opm m, .cmd .modmul] ++ expandWait w ++ [.rd .res]
  | .modexp b e m => [.wr .opa b, .wr .opb e, .wr .opm m, .cmd .modexp] ++ expandWait w ++ [.rd .res]
  | .keygen p q => [.wr .opa p, .wr .opb q, .cmd .keygen] ++ expandWait w ++ [.rd .status]
  | .encrypt m => [.wr .opa m, .cmd .encrypt] ++ expandWait w ++ [.rd .res]
  | .decrypt c => [.wr .opa c, .cmd .decrypt] ++ expandWait w ++ [.rd .res]

/-- The expansion of the line with this number: a base statement stands for itself, a pseudo-instruction for its statements with
a label of this line alone (R88). -/
def Line.expand (n : Nat) : Line → List (Stmt Label)
  | .base st => [st.mapLabel .named]
  | .pseudo p => p.expand (.wait n)

/-- The expansion of the lines of a program from number `n` on. -/
def expandFrom : Nat → List Line → List (Stmt Label)
  | _, [] => []
  | n, l :: ls => l.expand n ++ expandFrom (n + 1) ls

/-- The base statements that a written program stands for (R87, R88). -/
def expandProgram (ls : List Line) : List (Stmt Label) := expandFrom 0 ls

/-- A host that runs an expanded driver program: the statement it is at, its variables, the value each register's last read
returned, and whether every `RD reg => v` so far returned `v`. -/
structure Driver where
  prog : List (Stmt Label)
  line : Nat
  vars : List (String × Word)
  lastRead : List (Reg × Word)
  asExpected : Bool
  deriving DecidableEq, Repr

/-- The value of a host variable or a number; a variable never set is 0 (assumption 19). -/
def Driver.value (d : Driver) : Value → Word
  | .lit v => v
  | .var x => (d.vars.lookup x).getD 0

/-- The value the last read of a register returned; 0 before any (assumption 19). -/
def Driver.lastValue (d : Driver) (r : Reg) : Word := (d.lastRead.lookup r).getD 0

/-- The transaction of a statement, if it has one (R87). -/
def Driver.transactionOf (d : Driver) : Stmt Label → Option Transaction
  | .wr r v => some ⟨true, r.offset, 8, d.value v⟩
  | .rd r | .rdExpect r _ => some ⟨false, r.offset, 8, 0⟩
  | .cmd m => some ⟨true, Reg.cmd.offset, 8, m.opcode⟩
  | .label _ | .busy _ | .set _ _ | .add _ _ | .bne _ _ _ | .goto _ => none

/-- The next line. -/
def Driver.advance (d : Driver) : Driver := { d with line := d.line + 1 }

/-- Go to a label (R87). DESIGN CHOICE: to the first line with that label where several have it, and past the program's end
where none has (assumption 19). -/
def Driver.jump (d : Driver) (target : Label) : Driver :=
  { d with line := d.prog.idxOf (.label target) }

/-- The host-side effect of a statement, once its transaction, if any, has returned `rdata` (R87). DESIGN CHOICE: a sum of `ADD` that
reaches 2 ^ 64 wraps (assumption 19). -/
def Driver.finish (d : Driver) (rdata : Word) : Stmt Label → Driver
  | .label _ | .wr _ _ | .cmd _ => d.advance
  | .rd r => { d with lastRead := (r, rdata) :: d.lastRead }.advance
  | .rdExpect r v =>
    { d with lastRead := (r, rdata) :: d.lastRead, asExpected := d.asExpected && rdata == d.value v }.advance
  | .busy target => if (d.lastValue .status).getLsbD 0 then d.jump target else d.advance
  | .set x v => { d with vars := (x, d.value v) :: d.vars }.advance
  | .add x v => { d with vars := (x, d.value (.var x) + d.value v) :: d.vars }.advance
  | .bne r v target => if d.lastValue r ≠ d.value v then d.jump target else d.advance
  | .goto target => d.jump target

/-- A host at the first line of a written program. -/
def Driver.start (ls : List Line) : Driver :=
  { prog := expandProgram ls, line := 0, vars := [], lastRead := [], asExpected := true }

/-- Whether the result of a pseudo-instruction that ends in `RD RES` can be valid: only if the last `RD STATUS` showed `DONE = 1`
(R88). The rule gives this as necessary, and the model takes it as no more: with it set the result can still be an earlier
command's, where the pseudo-instruction's own `CMD` was dropped (assumption 19). -/
def Driver.resultMayBeValid (d : Driver) : Bool := (d.lastValue .status).getLsbD 1

/-- The host and the core, one statement. A statement with a transaction takes one edge of the clock, after `gap` edges without
a request, which the host is free to let pass (10_state.md R22, assumption 26); a host-side statement takes none. After the
last statement the host presents nothing. DESIGN CHOICE: a transaction that gets no `reg_ack`, because the core is held in reset or
just released from it, is not presented again: a read takes the 0 that the port drives, and the driver goes on (assumption 27). -/
def Driver.drive (gap : Nat) (d : Driver) (s : State) : Driver × Answer :=
  match d.prog[d.line]? with
  | none => (d, clockEdge none s)
  | some st =>
    match d.transactionOf st with
    | none => (d.finish 0 st, .next s)
    | some t =>
      match andThen (idleEdges gap s) (clockEdge (some t)) with
      | .next s' => (d.finish s'.rdata st, .next s')
      | .fault r => (d, .fault r)
      | .refused r => (d, .refused r)

end Sys2Proof.Machine
end

