-- ==== Sys2Proof/Laws/Driver.lean ====
section
/-! SUPPORT. The expansion of a driver program keeps the labels of every `WAIT` local to it (30_encoding.md R88). -/

namespace Sys2Proof.Machine

/-- The labels a list of statements defines. -/
def labelsOf {L : Type} (ps : List (Stmt L)) : List L :=
  ps.filterMap fun st => match st with
    | .label w => some w
    | _ => none

theorem labelsOf_append {L : Type} (ps qs : List (Stmt L)) : labelsOf (ps ++ qs) = labelsOf ps ++ labelsOf qs :=
  List.filterMap_append

/-- An expansion defines no label but the one it is given, and that one at most once. -/
theorem labelsOf_expand {L : Type} (w : L) (p : Pseudo) : labelsOf (p.expand w) = if p = .ack then [] else [w] := by
  cases p <;> rfl

/-- The label of a line's expansion is defined by no line from a later number on. -/
theorem wait_notMem_expandFrom {j n : Nat} (h : j < n) (ls : List Line) : .wait j ∉ labelsOf (expandFrom n ls) := by
  induction ls generalizing n with
  | nil => simp [expandFrom, labelsOf]
  | cons l ls ih =>
    rw [expandFrom, labelsOf_append, List.mem_append, not_or]
    refine ⟨?_, ih (by omega)⟩
    cases l with
    | base st => cases st <;> simp [Line.expand, Stmt.mapLabel, labelsOf]
    | pseudo p => rw [Line.expand, labelsOf_expand]; split_ifs <;> simp; omega

/-- No two expansions of a program share a label: each is defined at most once. -/
theorem wait_count_expandFrom (j n : Nat) (ls : List Line) : (labelsOf (expandFrom n ls)).count (.wait j) ≤ 1 := by
  induction ls generalizing n with
  | nil => simp [expandFrom, labelsOf]
  | cons l ls ih =>
    rw [expandFrom, labelsOf_append, List.count_append]
    cases l with
    | base st =>
      have h0 : (labelsOf (Line.expand n (.base st))).count (.wait j) = 0 := by
        cases st <;> simp [Line.expand, Stmt.mapLabel, labelsOf]
      rw [h0, Nat.zero_add]
      exact ih (n + 1)
    | pseudo p =>
      rw [Line.expand, labelsOf_expand]
      by_cases hj : j = n
      · have h0 : (labelsOf (expandFrom (n + 1) ls)).count (.wait j) = 0 :=
          List.count_eq_zero.mpr (wait_notMem_expandFrom (by omega) ls)
        rw [h0, Nat.add_zero]
        split_ifs <;> simp [hj]
      · have h1 : (if p = .ack then [] else [Label.wait n]).count (.wait j) = 0 := by
          by_cases hp : p = .ack
          · simp [hp]
          · simp [hp, Ne.symm hj]
        rw [h1, Nat.zero_add]
        exact ih (n + 1)

end Sys2Proof.Machine
end

