-- ==== Sys2Proof/Laws/State.lean ====
section
/-! SUPPORT. What each named update of the state makes of each field, each by rfl, so that no later proof unfolds a record
update. -/

namespace Sys2Proof.Machine

variable (s : State)

/-! ### respond -/

@[simp] theorem State.respond_ctrl (v : Word) (b : Bool) : (s.respond v b).ctrl = s.ctrl := rfl
@[simp] theorem State.respond_busy (v : Word) (b : Bool) : (s.respond v b).busy = s.busy := rfl
@[simp] theorem State.respond_done (v : Word) (b : Bool) : (s.respond v b).done = s.done := rfl
@[simp] theorem State.respond_err (v : Word) (b : Bool) : (s.respond v b).err = s.err := rfl
@[simp] theorem State.respond_ovr (v : Word) (b : Bool) : (s.respond v b).ovr = s.ovr := rfl
@[simp] theorem State.respond_keyValid (v : Word) (b : Bool) : (s.respond v b).keyValid = s.keyValid := rfl
@[simp] theorem State.respond_errcode (v : Word) (b : Bool) : (s.respond v b).errcode = s.errcode := rfl
@[simp] theorem State.respond_lastop (v : Word) (b : Bool) : (s.respond v b).lastop = s.lastop := rfl
@[simp] theorem State.respond_opa (v : Word) (b : Bool) : (s.respond v b).opa = s.opa := rfl
@[simp] theorem State.respond_opb (v : Word) (b : Bool) : (s.respond v b).opb = s.opb := rfl
@[simp] theorem State.respond_opm (v : Word) (b : Bool) : (s.respond v b).opm = s.opm := rfl
@[simp] theorem State.respond_res (v : Word) (b : Bool) : (s.respond v b).res = s.res := rfl
@[simp] theorem State.respond_keyN (v : Word) (b : Bool) : (s.respond v b).keyN = s.keyN := rfl
@[simp] theorem State.respond_keyPhi (v : Word) (b : Bool) : (s.respond v b).keyPhi = s.keyPhi := rfl
@[simp] theorem State.respond_keyE (v : Word) (b : Bool) : (s.respond v b).keyE = s.keyE := rfl
@[simp] theorem State.respond_keyD (v : Word) (b : Bool) : (s.respond v b).keyD = s.keyD := rfl
@[simp] theorem State.respond_lop (v : Word) (b : Bool) : (s.respond v b).lop = s.lop := rfl
@[simp] theorem State.respond_la (v : Word) (b : Bool) : (s.respond v b).la = s.la := rfl
@[simp] theorem State.respond_lb (v : Word) (b : Bool) : (s.respond v b).lb = s.lb := rfl
@[simp] theorem State.respond_lm (v : Word) (b : Bool) : (s.respond v b).lm = s.lm := rfl
@[simp] theorem State.respond_eng (v : Word) (b : Bool) : (s.respond v b).eng = s.eng := rfl
@[simp] theorem State.respond_stepsLeft (v : Word) (b : Bool) : (s.respond v b).stepsLeft = s.stepsLeft := rfl
@[simp] theorem State.respond_draws (v : Word) (b : Bool) : (s.respond v b).draws = s.draws := rfl
@[simp] theorem State.respond_inst (v : Word) (b : Bool) : (s.respond v b).inst = s.inst := rfl
@[simp] theorem State.respond_ack (v : Word) (b : Bool) : (s.respond v b).ack = true := rfl
@[simp] theorem State.respond_rdata (v : Word) (b : Bool) : (s.respond v b).rdata = v := rfl
@[simp] theorem State.respond_rerr (v : Word) (b : Bool) : (s.respond v b).rerr = b := rfl
@[simp] theorem State.respond_rst (v : Word) (b : Bool) : (s.respond v b).rst = s.rst := rfl
@[simp] theorem State.respond_events (v : Word) (b : Bool) : (s.respond v b).events = s.events := rfl

/-! ### noResponse -/

@[simp] theorem State.noResponse_ctrl : s.noResponse.ctrl = s.ctrl := rfl
@[simp] theorem State.noResponse_busy : s.noResponse.busy = s.busy := rfl
@[simp] theorem State.noResponse_done : s.noResponse.done = s.done := rfl
@[simp] theorem State.noResponse_err : s.noResponse.err = s.err := rfl
@[simp] theorem State.noResponse_ovr : s.noResponse.ovr = s.ovr := rfl
@[simp] theorem State.noResponse_keyValid : s.noResponse.keyValid = s.keyValid := rfl
@[simp] theorem State.noResponse_errcode : s.noResponse.errcode = s.errcode := rfl
@[simp] theorem State.noResponse_lastop : s.noResponse.lastop = s.lastop := rfl
@[simp] theorem State.noResponse_opa : s.noResponse.opa = s.opa := rfl
@[simp] theorem State.noResponse_opb : s.noResponse.opb = s.opb := rfl
@[simp] theorem State.noResponse_opm : s.noResponse.opm = s.opm := rfl
@[simp] theorem State.noResponse_res : s.noResponse.res = s.res := rfl
@[simp] theorem State.noResponse_keyN : s.noResponse.keyN = s.keyN := rfl
@[simp] theorem State.noResponse_keyPhi : s.noResponse.keyPhi = s.keyPhi := rfl
@[simp] theorem State.noResponse_keyE : s.noResponse.keyE = s.keyE := rfl
@[simp] theorem State.noResponse_keyD : s.noResponse.keyD = s.keyD := rfl
@[simp] theorem State.noResponse_lop : s.noResponse.lop = s.lop := rfl
@[simp] theorem State.noResponse_la : s.noResponse.la = s.la := rfl
@[simp] theorem State.noResponse_lb : s.noResponse.lb = s.lb := rfl
@[simp] theorem State.noResponse_lm : s.noResponse.lm = s.lm := rfl
@[simp] theorem State.noResponse_eng : s.noResponse.eng = s.eng := rfl
@[simp] theorem State.noResponse_stepsLeft : s.noResponse.stepsLeft = s.stepsLeft := rfl
@[simp] theorem State.noResponse_draws : s.noResponse.draws = s.draws := rfl
@[simp] theorem State.noResponse_inst : s.noResponse.inst = s.inst := rfl
@[simp] theorem State.noResponse_ack : s.noResponse.ack = false := rfl
@[simp] theorem State.noResponse_rdata : s.noResponse.rdata = 0 := rfl
@[simp] theorem State.noResponse_rerr : s.noResponse.rerr = false := rfl
@[simp] theorem State.noResponse_rst : s.noResponse.rst = s.rst := rfl
@[simp] theorem State.noResponse_events : s.noResponse.events = s.events := rfl

/-! ### w1c -/

@[simp] theorem State.w1c_ctrl (v : Word) : (s.w1c v).ctrl = s.ctrl := rfl
@[simp] theorem State.w1c_busy (v : Word) : (s.w1c v).busy = s.busy := rfl
@[simp] theorem State.w1c_done (v : Word) : (s.w1c v).done = (s.done && !v.getLsbD 1) := rfl
@[simp] theorem State.w1c_err (v : Word) : (s.w1c v).err = (s.err && !v.getLsbD 2) := rfl
@[simp] theorem State.w1c_ovr (v : Word) : (s.w1c v).ovr = (s.ovr && !v.getLsbD 3) := rfl
@[simp] theorem State.w1c_keyValid (v : Word) : (s.w1c v).keyValid = s.keyValid := rfl
@[simp] theorem State.w1c_errcode (v : Word) : (s.w1c v).errcode = s.errcode := rfl
@[simp] theorem State.w1c_lastop (v : Word) : (s.w1c v).lastop = s.lastop := rfl
@[simp] theorem State.w1c_opa (v : Word) : (s.w1c v).opa = s.opa := rfl
@[simp] theorem State.w1c_opb (v : Word) : (s.w1c v).opb = s.opb := rfl
@[simp] theorem State.w1c_opm (v : Word) : (s.w1c v).opm = s.opm := rfl
@[simp] theorem State.w1c_res (v : Word) : (s.w1c v).res = s.res := rfl
@[simp] theorem State.w1c_keyN (v : Word) : (s.w1c v).keyN = s.keyN := rfl
@[simp] theorem State.w1c_keyPhi (v : Word) : (s.w1c v).keyPhi = s.keyPhi := rfl
@[simp] theorem State.w1c_keyE (v : Word) : (s.w1c v).keyE = s.keyE := rfl
@[simp] theorem State.w1c_keyD (v : Word) : (s.w1c v).keyD = s.keyD := rfl
@[simp] theorem State.w1c_lop (v : Word) : (s.w1c v).lop = s.lop := rfl
@[simp] theorem State.w1c_la (v : Word) : (s.w1c v).la = s.la := rfl
@[simp] theorem State.w1c_lb (v : Word) : (s.w1c v).lb = s.lb := rfl
@[simp] theorem State.w1c_lm (v : Word) : (s.w1c v).lm = s.lm := rfl
@[simp] theorem State.w1c_eng (v : Word) : (s.w1c v).eng = s.eng := rfl
@[simp] theorem State.w1c_stepsLeft (v : Word) : (s.w1c v).stepsLeft = s.stepsLeft := rfl
@[simp] theorem State.w1c_draws (v : Word) : (s.w1c v).draws = s.draws := rfl
@[simp] theorem State.w1c_inst (v : Word) : (s.w1c v).inst = s.inst := rfl
@[simp] theorem State.w1c_ack (v : Word) : (s.w1c v).ack = s.ack := rfl
@[simp] theorem State.w1c_rdata (v : Word) : (s.w1c v).rdata = s.rdata := rfl
@[simp] theorem State.w1c_rerr (v : Word) : (s.w1c v).rerr = s.rerr := rfl
@[simp] theorem State.w1c_rst (v : Word) : (s.w1c v).rst = s.rst := rfl
@[simp] theorem State.w1c_events (v : Word) : (s.w1c v).events = s.events := rfl

/-! ### latchOperands -/

@[simp] theorem State.latchOperands_ctrl : s.latchOperands.ctrl = s.ctrl := rfl
@[simp] theorem State.latchOperands_busy : s.latchOperands.busy = s.busy := rfl
@[simp] theorem State.latchOperands_done : s.latchOperands.done = s.done := rfl
@[simp] theorem State.latchOperands_err : s.latchOperands.err = s.err := rfl
@[simp] theorem State.latchOperands_ovr : s.latchOperands.ovr = s.ovr := rfl
@[simp] theorem State.latchOperands_keyValid : s.latchOperands.keyValid = s.keyValid := rfl
@[simp] theorem State.latchOperands_errcode : s.latchOperands.errcode = s.errcode := rfl
@[simp] theorem State.latchOperands_lastop : s.latchOperands.lastop = s.lastop := rfl
@[simp] theorem State.latchOperands_opa : s.latchOperands.opa = s.opa := rfl
@[simp] theorem State.latchOperands_opb : s.latchOperands.opb = s.opb := rfl
@[simp] theorem State.latchOperands_opm : s.latchOperands.opm = s.opm := rfl
@[simp] theorem State.latchOperands_res : s.latchOperands.res = s.res := rfl
@[simp] theorem State.latchOperands_keyN : s.latchOperands.keyN = s.keyN := rfl
@[simp] theorem State.latchOperands_keyPhi : s.latchOperands.keyPhi = s.keyPhi := rfl
@[simp] theorem State.latchOperands_keyE : s.latchOperands.keyE = s.keyE := rfl
@[simp] theorem State.latchOperands_keyD : s.latchOperands.keyD = s.keyD := rfl
@[simp] theorem State.latchOperands_lop : s.latchOperands.lop = s.lop := rfl
@[simp] theorem State.latchOperands_la : s.latchOperands.la = s.opa := rfl
@[simp] theorem State.latchOperands_lb : s.latchOperands.lb = s.opb := rfl
@[simp] theorem State.latchOperands_lm : s.latchOperands.lm = s.opm := rfl
@[simp] theorem State.latchOperands_eng : s.latchOperands.eng = s.eng := rfl
@[simp] theorem State.latchOperands_stepsLeft : s.latchOperands.stepsLeft = s.stepsLeft := rfl
@[simp] theorem State.latchOperands_draws : s.latchOperands.draws = s.draws := rfl
@[simp] theorem State.latchOperands_inst : s.latchOperands.inst = s.inst := rfl
@[simp] theorem State.latchOperands_ack : s.latchOperands.ack = s.ack := rfl
@[simp] theorem State.latchOperands_rdata : s.latchOperands.rdata = s.rdata := rfl
@[simp] theorem State.latchOperands_rerr : s.latchOperands.rerr = s.rerr := rfl
@[simp] theorem State.latchOperands_rst : s.latchOperands.rst = s.rst := rfl
@[simp] theorem State.latchOperands_events : s.latchOperands.events = s.events := rfl

/-! ### accept -/

@[simp] theorem State.accept_ctrl (w : Word) : (s.accept w).ctrl = s.ctrl := rfl
@[simp] theorem State.accept_busy (w : Word) : (s.accept w).busy = true := rfl
@[simp] theorem State.accept_done (w : Word) : (s.accept w).done = false := rfl
@[simp] theorem State.accept_err (w : Word) : (s.accept w).err = false := rfl
@[simp] theorem State.accept_ovr (w : Word) : (s.accept w).ovr = s.ovr := rfl
@[simp] theorem State.accept_keyValid (w : Word) : (s.accept w).keyValid = s.keyValid := rfl
@[simp] theorem State.accept_errcode (w : Word) : (s.accept w).errcode = 0 := rfl
@[simp] theorem State.accept_lastop (w : Word) : (s.accept w).lastop = opField w := rfl
@[simp] theorem State.accept_opa (w : Word) : (s.accept w).opa = s.opa := rfl
@[simp] theorem State.accept_opb (w : Word) : (s.accept w).opb = s.opb := rfl
@[simp] theorem State.accept_opm (w : Word) : (s.accept w).opm = s.opm := rfl
@[simp] theorem State.accept_res (w : Word) : (s.accept w).res = s.res := rfl
@[simp] theorem State.accept_keyN (w : Word) : (s.accept w).keyN = s.keyN := rfl
@[simp] theorem State.accept_keyPhi (w : Word) : (s.accept w).keyPhi = s.keyPhi := rfl
@[simp] theorem State.accept_keyE (w : Word) : (s.accept w).keyE = s.keyE := rfl
@[simp] theorem State.accept_keyD (w : Word) : (s.accept w).keyD = s.keyD := rfl
@[simp] theorem State.accept_lop (w : Word) : (s.accept w).lop = decodeOp w := rfl
@[simp] theorem State.accept_la (w : Word) : (s.accept w).la = s.opa := rfl
@[simp] theorem State.accept_lb (w : Word) : (s.accept w).lb = s.opb := rfl
@[simp] theorem State.accept_lm (w : Word) : (s.accept w).lm = s.opm := rfl
@[simp] theorem State.accept_eng (w : Word) : (s.accept w).eng = s.eng.start (decodeOp w) := rfl
@[simp] theorem State.accept_stepsLeft (w : Word) : (s.accept w).stepsLeft = latencyOf (decodeOp w) s.latchOperands.operands s.inst s.draws := rfl
@[simp] theorem State.accept_draws (w : Word) : (s.accept w).draws = s.draws + 1 := rfl
@[simp] theorem State.accept_inst (w : Word) : (s.accept w).inst = s.inst := rfl
@[simp] theorem State.accept_ack (w : Word) : (s.accept w).ack = s.ack := rfl
@[simp] theorem State.accept_rdata (w : Word) : (s.accept w).rdata = s.rdata := rfl
@[simp] theorem State.accept_rerr (w : Word) : (s.accept w).rerr = s.rerr := rfl
@[simp] theorem State.accept_rst (w : Word) : (s.accept w).rst = s.rst := rfl
@[simp] theorem State.accept_events (w : Word) : (s.accept w).events = s.events := rfl

/-! ### dropCommand -/

@[simp] theorem State.dropCommand_ctrl : s.dropCommand.ctrl = s.ctrl := rfl
@[simp] theorem State.dropCommand_busy : s.dropCommand.busy = s.busy := rfl
@[simp] theorem State.dropCommand_done : s.dropCommand.done = s.done := rfl
@[simp] theorem State.dropCommand_err : s.dropCommand.err = s.err := rfl
@[simp] theorem State.dropCommand_ovr : s.dropCommand.ovr = true := rfl
@[simp] theorem State.dropCommand_keyValid : s.dropCommand.keyValid = s.keyValid := rfl
@[simp] theorem State.dropCommand_errcode : s.dropCommand.errcode = s.errcode := rfl
@[simp] theorem State.dropCommand_lastop : s.dropCommand.lastop = s.lastop := rfl
@[simp] theorem State.dropCommand_opa : s.dropCommand.opa = s.opa := rfl
@[simp] theorem State.dropCommand_opb : s.dropCommand.opb = s.opb := rfl
@[simp] theorem State.dropCommand_opm : s.dropCommand.opm = s.opm := rfl
@[simp] theorem State.dropCommand_res : s.dropCommand.res = s.res := rfl
@[simp] theorem State.dropCommand_keyN : s.dropCommand.keyN = s.keyN := rfl
@[simp] theorem State.dropCommand_keyPhi : s.dropCommand.keyPhi = s.keyPhi := rfl
@[simp] theorem State.dropCommand_keyE : s.dropCommand.keyE = s.keyE := rfl
@[simp] theorem State.dropCommand_keyD : s.dropCommand.keyD = s.keyD := rfl
@[simp] theorem State.dropCommand_lop : s.dropCommand.lop = s.lop := rfl
@[simp] theorem State.dropCommand_la : s.dropCommand.la = s.la := rfl
@[simp] theorem State.dropCommand_lb : s.dropCommand.lb = s.lb := rfl
@[simp] theorem State.dropCommand_lm : s.dropCommand.lm = s.lm := rfl
@[simp] theorem State.dropCommand_eng : s.dropCommand.eng = s.eng := rfl
@[simp] theorem State.dropCommand_stepsLeft : s.dropCommand.stepsLeft = s.stepsLeft := rfl
@[simp] theorem State.dropCommand_draws : s.dropCommand.draws = s.draws := rfl
@[simp] theorem State.dropCommand_inst : s.dropCommand.inst = s.inst := rfl
@[simp] theorem State.dropCommand_ack : s.dropCommand.ack = s.ack := rfl
@[simp] theorem State.dropCommand_rdata : s.dropCommand.rdata = s.rdata := rfl
@[simp] theorem State.dropCommand_rerr : s.dropCommand.rerr = s.rerr := rfl
@[simp] theorem State.dropCommand_rst : s.dropCommand.rst = s.rst := rfl
@[simp] theorem State.dropCommand_events : s.dropCommand.events = s.events := rfl

/-! ### completeRes -/

@[simp] theorem State.completeRes_ctrl (v : Word) : (s.completeRes v).ctrl = s.ctrl := rfl
@[simp] theorem State.completeRes_busy (v : Word) : (s.completeRes v).busy = false := rfl
@[simp] theorem State.completeRes_done (v : Word) : (s.completeRes v).done = true := rfl
@[simp] theorem State.completeRes_err (v : Word) : (s.completeRes v).err = s.err := rfl
@[simp] theorem State.completeRes_ovr (v : Word) : (s.completeRes v).ovr = s.ovr := rfl
@[simp] theorem State.completeRes_keyValid (v : Word) : (s.completeRes v).keyValid = s.keyValid := rfl
@[simp] theorem State.completeRes_errcode (v : Word) : (s.completeRes v).errcode = s.errcode := rfl
@[simp] theorem State.completeRes_lastop (v : Word) : (s.completeRes v).lastop = s.lastop := rfl
@[simp] theorem State.completeRes_opa (v : Word) : (s.completeRes v).opa = s.opa := rfl
@[simp] theorem State.completeRes_opb (v : Word) : (s.completeRes v).opb = s.opb := rfl
@[simp] theorem State.completeRes_opm (v : Word) : (s.completeRes v).opm = s.opm := rfl
@[simp] theorem State.completeRes_res (v : Word) : (s.completeRes v).res = v := rfl
@[simp] theorem State.completeRes_keyN (v : Word) : (s.completeRes v).keyN = s.keyN := rfl
@[simp] theorem State.completeRes_keyPhi (v : Word) : (s.completeRes v).keyPhi = s.keyPhi := rfl
@[simp] theorem State.completeRes_keyE (v : Word) : (s.completeRes v).keyE = s.keyE := rfl
@[simp] theorem State.completeRes_keyD (v : Word) : (s.completeRes v).keyD = s.keyD := rfl
@[simp] theorem State.completeRes_lop (v : Word) : (s.completeRes v).lop = s.lop := rfl
@[simp] theorem State.completeRes_la (v : Word) : (s.completeRes v).la = s.la := rfl
@[simp] theorem State.completeRes_lb (v : Word) : (s.completeRes v).lb = s.lb := rfl
@[simp] theorem State.completeRes_lm (v : Word) : (s.completeRes v).lm = s.lm := rfl
@[simp] theorem State.completeRes_eng (v : Word) : (s.completeRes v).eng = s.eng := rfl
@[simp] theorem State.completeRes_stepsLeft (v : Word) : (s.completeRes v).stepsLeft = s.stepsLeft := rfl
@[simp] theorem State.completeRes_draws (v : Word) : (s.completeRes v).draws = s.draws := rfl
@[simp] theorem State.completeRes_inst (v : Word) : (s.completeRes v).inst = s.inst := rfl
@[simp] theorem State.completeRes_ack (v : Word) : (s.completeRes v).ack = s.ack := rfl
@[simp] theorem State.completeRes_rdata (v : Word) : (s.completeRes v).rdata = s.rdata := rfl
@[simp] theorem State.completeRes_rerr (v : Word) : (s.completeRes v).rerr = s.rerr := rfl
@[simp] theorem State.completeRes_rst (v : Word) : (s.completeRes v).rst = s.rst := rfl
@[simp] theorem State.completeRes_events (v : Word) : (s.completeRes v).events = s.events := rfl

/-! ### completeKey -/

@[simp] theorem State.completeKey_ctrl (n phi e d : Word) : (s.completeKey n phi e d).ctrl = s.ctrl := rfl
@[simp] theorem State.completeKey_busy (n phi e d : Word) : (s.completeKey n phi e d).busy = false := rfl
@[simp] theorem State.completeKey_done (n phi e d : Word) : (s.completeKey n phi e d).done = true := rfl
@[simp] theorem State.completeKey_err (n phi e d : Word) : (s.completeKey n phi e d).err = s.err := rfl
@[simp] theorem State.completeKey_ovr (n phi e d : Word) : (s.completeKey n phi e d).ovr = s.ovr := rfl
@[simp] theorem State.completeKey_keyValid (n phi e d : Word) : (s.completeKey n phi e d).keyValid = true := rfl
@[simp] theorem State.completeKey_errcode (n phi e d : Word) : (s.completeKey n phi e d).errcode = s.errcode := rfl
@[simp] theorem State.completeKey_lastop (n phi e d : Word) : (s.completeKey n phi e d).lastop = s.lastop := rfl
@[simp] theorem State.completeKey_opa (n phi e d : Word) : (s.completeKey n phi e d).opa = s.opa := rfl
@[simp] theorem State.completeKey_opb (n phi e d : Word) : (s.completeKey n phi e d).opb = s.opb := rfl
@[simp] theorem State.completeKey_opm (n phi e d : Word) : (s.completeKey n phi e d).opm = s.opm := rfl
@[simp] theorem State.completeKey_res (n phi e d : Word) : (s.completeKey n phi e d).res = s.res := rfl
@[simp] theorem State.completeKey_keyN (n phi e d : Word) : (s.completeKey n phi e d).keyN = n := rfl
@[simp] theorem State.completeKey_keyPhi (n phi e d : Word) : (s.completeKey n phi e d).keyPhi = phi := rfl
@[simp] theorem State.completeKey_keyE (n phi e d : Word) : (s.completeKey n phi e d).keyE = e := rfl
@[simp] theorem State.completeKey_keyD (n phi e d : Word) : (s.completeKey n phi e d).keyD = d := rfl
@[simp] theorem State.completeKey_lop (n phi e d : Word) : (s.completeKey n phi e d).lop = s.lop := rfl
@[simp] theorem State.completeKey_la (n phi e d : Word) : (s.completeKey n phi e d).la = s.la := rfl
@[simp] theorem State.completeKey_lb (n phi e d : Word) : (s.completeKey n phi e d).lb = s.lb := rfl
@[simp] theorem State.completeKey_lm (n phi e d : Word) : (s.completeKey n phi e d).lm = s.lm := rfl
@[simp] theorem State.completeKey_eng (n phi e d : Word) : (s.completeKey n phi e d).eng = s.eng := rfl
@[simp] theorem State.completeKey_stepsLeft (n phi e d : Word) : (s.completeKey n phi e d).stepsLeft = s.stepsLeft := rfl
@[simp] theorem State.completeKey_draws (n phi e d : Word) : (s.completeKey n phi e d).draws = s.draws := rfl
@[simp] theorem State.completeKey_inst (n phi e d : Word) : (s.completeKey n phi e d).inst = s.inst := rfl
@[simp] theorem State.completeKey_ack (n phi e d : Word) : (s.completeKey n phi e d).ack = s.ack := rfl
@[simp] theorem State.completeKey_rdata (n phi e d : Word) : (s.completeKey n phi e d).rdata = s.rdata := rfl
@[simp] theorem State.completeKey_rerr (n phi e d : Word) : (s.completeKey n phi e d).rerr = s.rerr := rfl
@[simp] theorem State.completeKey_rst (n phi e d : Word) : (s.completeKey n phi e d).rst = s.rst := rfl
@[simp] theorem State.completeKey_events (n phi e d : Word) : (s.completeKey n phi e d).events = s.events := rfl

/-! ### raiseError -/

@[simp] theorem State.raiseError_ctrl (code : ErrCode) : (s.raiseError code).ctrl = s.ctrl := rfl
@[simp] theorem State.raiseError_busy (code : ErrCode) : (s.raiseError code).busy = false := rfl
@[simp] theorem State.raiseError_done (code : ErrCode) : (s.raiseError code).done = s.done := rfl
@[simp] theorem State.raiseError_err (code : ErrCode) : (s.raiseError code).err = true := rfl
@[simp] theorem State.raiseError_ovr (code : ErrCode) : (s.raiseError code).ovr = s.ovr := rfl
@[simp] theorem State.raiseError_keyValid (code : ErrCode) : (s.raiseError code).keyValid = s.keyValid := rfl
@[simp] theorem State.raiseError_errcode (code : ErrCode) : (s.raiseError code).errcode = code.code := rfl
@[simp] theorem State.raiseError_lastop (code : ErrCode) : (s.raiseError code).lastop = s.lastop := rfl
@[simp] theorem State.raiseError_opa (code : ErrCode) : (s.raiseError code).opa = s.opa := rfl
@[simp] theorem State.raiseError_opb (code : ErrCode) : (s.raiseError code).opb = s.opb := rfl
@[simp] theorem State.raiseError_opm (code : ErrCode) : (s.raiseError code).opm = s.opm := rfl
@[simp] theorem State.raiseError_res (code : ErrCode) : (s.raiseError code).res = s.res := rfl
@[simp] theorem State.raiseError_keyN (code : ErrCode) : (s.raiseError code).keyN = s.keyN := rfl
@[simp] theorem State.raiseError_keyPhi (code : ErrCode) : (s.raiseError code).keyPhi = s.keyPhi := rfl
@[simp] theorem State.raiseError_keyE (code : ErrCode) : (s.raiseError code).keyE = s.keyE := rfl
@[simp] theorem State.raiseError_keyD (code : ErrCode) : (s.raiseError code).keyD = s.keyD := rfl
@[simp] theorem State.raiseError_lop (code : ErrCode) : (s.raiseError code).lop = s.lop := rfl
@[simp] theorem State.raiseError_la (code : ErrCode) : (s.raiseError code).la = s.la := rfl
@[simp] theorem State.raiseError_lb (code : ErrCode) : (s.raiseError code).lb = s.lb := rfl
@[simp] theorem State.raiseError_lm (code : ErrCode) : (s.raiseError code).lm = s.lm := rfl
@[simp] theorem State.raiseError_eng (code : ErrCode) : (s.raiseError code).eng = s.eng := rfl
@[simp] theorem State.raiseError_stepsLeft (code : ErrCode) : (s.raiseError code).stepsLeft = s.stepsLeft := rfl
@[simp] theorem State.raiseError_draws (code : ErrCode) : (s.raiseError code).draws = s.draws := rfl
@[simp] theorem State.raiseError_inst (code : ErrCode) : (s.raiseError code).inst = s.inst := rfl
@[simp] theorem State.raiseError_ack (code : ErrCode) : (s.raiseError code).ack = s.ack := rfl
@[simp] theorem State.raiseError_rdata (code : ErrCode) : (s.raiseError code).rdata = s.rdata := rfl
@[simp] theorem State.raiseError_rerr (code : ErrCode) : (s.raiseError code).rerr = s.rerr := rfl
@[simp] theorem State.raiseError_rst (code : ErrCode) : (s.raiseError code).rst = s.rst := rfl
@[simp] theorem State.raiseError_events (code : ErrCode) : (s.raiseError code).events = s.events := rfl

/-! ### continueStep -/

@[simp] theorem State.continueStep_ctrl (f : Micro) : (s.continueStep f).ctrl = s.ctrl := rfl
@[simp] theorem State.continueStep_busy (f : Micro) : (s.continueStep f).busy = s.busy := rfl
@[simp] theorem State.continueStep_done (f : Micro) : (s.continueStep f).done = s.done := rfl
@[simp] theorem State.continueStep_err (f : Micro) : (s.continueStep f).err = s.err := rfl
@[simp] theorem State.continueStep_ovr (f : Micro) : (s.continueStep f).ovr = s.ovr := rfl
@[simp] theorem State.continueStep_keyValid (f : Micro) : (s.continueStep f).keyValid = s.keyValid := rfl
@[simp] theorem State.continueStep_errcode (f : Micro) : (s.continueStep f).errcode = s.errcode := rfl
@[simp] theorem State.continueStep_lastop (f : Micro) : (s.continueStep f).lastop = s.lastop := rfl
@[simp] theorem State.continueStep_opa (f : Micro) : (s.continueStep f).opa = s.opa := rfl
@[simp] theorem State.continueStep_opb (f : Micro) : (s.continueStep f).opb = s.opb := rfl
@[simp] theorem State.continueStep_opm (f : Micro) : (s.continueStep f).opm = s.opm := rfl
@[simp] theorem State.continueStep_res (f : Micro) : (s.continueStep f).res = s.res := rfl
@[simp] theorem State.continueStep_keyN (f : Micro) : (s.continueStep f).keyN = s.keyN := rfl
@[simp] theorem State.continueStep_keyPhi (f : Micro) : (s.continueStep f).keyPhi = s.keyPhi := rfl
@[simp] theorem State.continueStep_keyE (f : Micro) : (s.continueStep f).keyE = s.keyE := rfl
@[simp] theorem State.continueStep_keyD (f : Micro) : (s.continueStep f).keyD = s.keyD := rfl
@[simp] theorem State.continueStep_lop (f : Micro) : (s.continueStep f).lop = s.lop := rfl
@[simp] theorem State.continueStep_la (f : Micro) : (s.continueStep f).la = s.la := rfl
@[simp] theorem State.continueStep_lb (f : Micro) : (s.continueStep f).lb = s.lb := rfl
@[simp] theorem State.continueStep_lm (f : Micro) : (s.continueStep f).lm = s.lm := rfl
@[simp] theorem State.continueStep_eng (f : Micro) : (s.continueStep f).eng = microRun (f s.operands) (Config.iterationDraw s.inst s.draws s.lop s.operands) s.eng := rfl
@[simp] theorem State.continueStep_stepsLeft (f : Micro) : (s.continueStep f).stepsLeft = s.stepsLeft - 1 := rfl
@[simp] theorem State.continueStep_draws (f : Micro) : (s.continueStep f).draws = s.draws + 1 := rfl
@[simp] theorem State.continueStep_inst (f : Micro) : (s.continueStep f).inst = s.inst := rfl
@[simp] theorem State.continueStep_ack (f : Micro) : (s.continueStep f).ack = s.ack := rfl
@[simp] theorem State.continueStep_rdata (f : Micro) : (s.continueStep f).rdata = s.rdata := rfl
@[simp] theorem State.continueStep_rerr (f : Micro) : (s.continueStep f).rerr = s.rerr := rfl
@[simp] theorem State.continueStep_rst (f : Micro) : (s.continueStep f).rst = s.rst := rfl
@[simp] theorem State.continueStep_events (f : Micro) : (s.continueStep f).events = s.events := rfl

/-! ### releaseReset -/

@[simp] theorem State.releaseReset_ctrl : s.releaseReset.ctrl = s.ctrl := rfl
@[simp] theorem State.releaseReset_busy : s.releaseReset.busy = s.busy := rfl
@[simp] theorem State.releaseReset_done : s.releaseReset.done = s.done := rfl
@[simp] theorem State.releaseReset_err : s.releaseReset.err = s.err := rfl
@[simp] theorem State.releaseReset_ovr : s.releaseReset.ovr = s.ovr := rfl
@[simp] theorem State.releaseReset_keyValid : s.releaseReset.keyValid = s.keyValid := rfl
@[simp] theorem State.releaseReset_errcode : s.releaseReset.errcode = s.errcode := rfl
@[simp] theorem State.releaseReset_lastop : s.releaseReset.lastop = s.lastop := rfl
@[simp] theorem State.releaseReset_opa : s.releaseReset.opa = s.opa := rfl
@[simp] theorem State.releaseReset_opb : s.releaseReset.opb = s.opb := rfl
@[simp] theorem State.releaseReset_opm : s.releaseReset.opm = s.opm := rfl
@[simp] theorem State.releaseReset_res : s.releaseReset.res = s.res := rfl
@[simp] theorem State.releaseReset_keyN : s.releaseReset.keyN = s.keyN := rfl
@[simp] theorem State.releaseReset_keyPhi : s.releaseReset.keyPhi = s.keyPhi := rfl
@[simp] theorem State.releaseReset_keyE : s.releaseReset.keyE = s.keyE := rfl
@[simp] theorem State.releaseReset_keyD : s.releaseReset.keyD = s.keyD := rfl
@[simp] theorem State.releaseReset_lop : s.releaseReset.lop = s.lop := rfl
@[simp] theorem State.releaseReset_la : s.releaseReset.la = s.la := rfl
@[simp] theorem State.releaseReset_lb : s.releaseReset.lb = s.lb := rfl
@[simp] theorem State.releaseReset_lm : s.releaseReset.lm = s.lm := rfl
@[simp] theorem State.releaseReset_eng : s.releaseReset.eng = s.eng := rfl
@[simp] theorem State.releaseReset_stepsLeft : s.releaseReset.stepsLeft = s.stepsLeft := rfl
@[simp] theorem State.releaseReset_draws : s.releaseReset.draws = s.draws := rfl
@[simp] theorem State.releaseReset_inst : s.releaseReset.inst = s.inst := rfl
@[simp] theorem State.releaseReset_ack : s.releaseReset.ack = s.ack := rfl
@[simp] theorem State.releaseReset_rdata : s.releaseReset.rdata = s.rdata := rfl
@[simp] theorem State.releaseReset_rerr : s.releaseReset.rerr = s.rerr := rfl
@[simp] theorem State.releaseReset_rst : s.releaseReset.rst = .released := rfl
@[simp] theorem State.releaseReset_events : s.releaseReset.events = s.events := rfl

/-! ### leaveReset -/

@[simp] theorem State.leaveReset_ctrl : s.leaveReset.ctrl = s.ctrl := rfl
@[simp] theorem State.leaveReset_busy : s.leaveReset.busy = s.busy := rfl
@[simp] theorem State.leaveReset_done : s.leaveReset.done = s.done := rfl
@[simp] theorem State.leaveReset_err : s.leaveReset.err = s.err := rfl
@[simp] theorem State.leaveReset_ovr : s.leaveReset.ovr = s.ovr := rfl
@[simp] theorem State.leaveReset_keyValid : s.leaveReset.keyValid = s.keyValid := rfl
@[simp] theorem State.leaveReset_errcode : s.leaveReset.errcode = s.errcode := rfl
@[simp] theorem State.leaveReset_lastop : s.leaveReset.lastop = s.lastop := rfl
@[simp] theorem State.leaveReset_opa : s.leaveReset.opa = s.opa := rfl
@[simp] theorem State.leaveReset_opb : s.leaveReset.opb = s.opb := rfl
@[simp] theorem State.leaveReset_opm : s.leaveReset.opm = s.opm := rfl
@[simp] theorem State.leaveReset_res : s.leaveReset.res = s.res := rfl
@[simp] theorem State.leaveReset_keyN : s.leaveReset.keyN = s.keyN := rfl
@[simp] theorem State.leaveReset_keyPhi : s.leaveReset.keyPhi = s.keyPhi := rfl
@[simp] theorem State.leaveReset_keyE : s.leaveReset.keyE = s.keyE := rfl
@[simp] theorem State.leaveReset_keyD : s.leaveReset.keyD = s.keyD := rfl
@[simp] theorem State.leaveReset_lop : s.leaveReset.lop = s.lop := rfl
@[simp] theorem State.leaveReset_la : s.leaveReset.la = s.la := rfl
@[simp] theorem State.leaveReset_lb : s.leaveReset.lb = s.lb := rfl
@[simp] theorem State.leaveReset_lm : s.leaveReset.lm = s.lm := rfl
@[simp] theorem State.leaveReset_eng : s.leaveReset.eng = s.eng := rfl
@[simp] theorem State.leaveReset_stepsLeft : s.leaveReset.stepsLeft = s.stepsLeft := rfl
@[simp] theorem State.leaveReset_draws : s.leaveReset.draws = s.draws := rfl
@[simp] theorem State.leaveReset_inst : s.leaveReset.inst = s.inst := rfl
@[simp] theorem State.leaveReset_ack : s.leaveReset.ack = s.ack := rfl
@[simp] theorem State.leaveReset_rdata : s.leaveReset.rdata = s.rdata := rfl
@[simp] theorem State.leaveReset_rerr : s.leaveReset.rerr = s.rerr := rfl
@[simp] theorem State.leaveReset_rst : s.leaveReset.rst = .running := rfl
@[simp] theorem State.leaveReset_events : s.leaveReset.events = s.events := rfl

/-! ### popEvent -/

@[simp] theorem State.popEvent_ctrl : s.popEvent.ctrl = s.ctrl := rfl
@[simp] theorem State.popEvent_busy : s.popEvent.busy = s.busy := rfl
@[simp] theorem State.popEvent_done : s.popEvent.done = s.done := rfl
@[simp] theorem State.popEvent_err : s.popEvent.err = s.err := rfl
@[simp] theorem State.popEvent_ovr : s.popEvent.ovr = s.ovr := rfl
@[simp] theorem State.popEvent_keyValid : s.popEvent.keyValid = s.keyValid := rfl
@[simp] theorem State.popEvent_errcode : s.popEvent.errcode = s.errcode := rfl
@[simp] theorem State.popEvent_lastop : s.popEvent.lastop = s.lastop := rfl
@[simp] theorem State.popEvent_opa : s.popEvent.opa = s.opa := rfl
@[simp] theorem State.popEvent_opb : s.popEvent.opb = s.opb := rfl
@[simp] theorem State.popEvent_opm : s.popEvent.opm = s.opm := rfl
@[simp] theorem State.popEvent_res : s.popEvent.res = s.res := rfl
@[simp] theorem State.popEvent_keyN : s.popEvent.keyN = s.keyN := rfl
@[simp] theorem State.popEvent_keyPhi : s.popEvent.keyPhi = s.keyPhi := rfl
@[simp] theorem State.popEvent_keyE : s.popEvent.keyE = s.keyE := rfl
@[simp] theorem State.popEvent_keyD : s.popEvent.keyD = s.keyD := rfl
@[simp] theorem State.popEvent_lop : s.popEvent.lop = s.lop := rfl
@[simp] theorem State.popEvent_la : s.popEvent.la = s.la := rfl
@[simp] theorem State.popEvent_lb : s.popEvent.lb = s.lb := rfl
@[simp] theorem State.popEvent_lm : s.popEvent.lm = s.lm := rfl
@[simp] theorem State.popEvent_eng : s.popEvent.eng = s.eng := rfl
@[simp] theorem State.popEvent_stepsLeft : s.popEvent.stepsLeft = s.stepsLeft := rfl
@[simp] theorem State.popEvent_draws : s.popEvent.draws = s.draws := rfl
@[simp] theorem State.popEvent_inst : s.popEvent.inst = s.inst := rfl
@[simp] theorem State.popEvent_ack : s.popEvent.ack = s.ack := rfl
@[simp] theorem State.popEvent_rdata : s.popEvent.rdata = s.rdata := rfl
@[simp] theorem State.popEvent_rerr : s.popEvent.rerr = s.rerr := rfl
@[simp] theorem State.popEvent_rst : s.popEvent.rst = s.rst := rfl
@[simp] theorem State.popEvent_events : s.popEvent.events = s.events.tail := rfl

/-! ### pushEvent -/

@[simp] theorem State.pushEvent_ctrl (e : Event) : (s.pushEvent e).ctrl = s.ctrl := rfl
@[simp] theorem State.pushEvent_busy (e : Event) : (s.pushEvent e).busy = s.busy := rfl
@[simp] theorem State.pushEvent_done (e : Event) : (s.pushEvent e).done = s.done := rfl
@[simp] theorem State.pushEvent_err (e : Event) : (s.pushEvent e).err = s.err := rfl
@[simp] theorem State.pushEvent_ovr (e : Event) : (s.pushEvent e).ovr = s.ovr := rfl
@[simp] theorem State.pushEvent_keyValid (e : Event) : (s.pushEvent e).keyValid = s.keyValid := rfl
@[simp] theorem State.pushEvent_errcode (e : Event) : (s.pushEvent e).errcode = s.errcode := rfl
@[simp] theorem State.pushEvent_lastop (e : Event) : (s.pushEvent e).lastop = s.lastop := rfl
@[simp] theorem State.pushEvent_opa (e : Event) : (s.pushEvent e).opa = s.opa := rfl
@[simp] theorem State.pushEvent_opb (e : Event) : (s.pushEvent e).opb = s.opb := rfl
@[simp] theorem State.pushEvent_opm (e : Event) : (s.pushEvent e).opm = s.opm := rfl
@[simp] theorem State.pushEvent_res (e : Event) : (s.pushEvent e).res = s.res := rfl
@[simp] theorem State.pushEvent_keyN (e : Event) : (s.pushEvent e).keyN = s.keyN := rfl
@[simp] theorem State.pushEvent_keyPhi (e : Event) : (s.pushEvent e).keyPhi = s.keyPhi := rfl
@[simp] theorem State.pushEvent_keyE (e : Event) : (s.pushEvent e).keyE = s.keyE := rfl
@[simp] theorem State.pushEvent_keyD (e : Event) : (s.pushEvent e).keyD = s.keyD := rfl
@[simp] theorem State.pushEvent_lop (e : Event) : (s.pushEvent e).lop = s.lop := rfl
@[simp] theorem State.pushEvent_la (e : Event) : (s.pushEvent e).la = s.la := rfl
@[simp] theorem State.pushEvent_lb (e : Event) : (s.pushEvent e).lb = s.lb := rfl
@[simp] theorem State.pushEvent_lm (e : Event) : (s.pushEvent e).lm = s.lm := rfl
@[simp] theorem State.pushEvent_eng (e : Event) : (s.pushEvent e).eng = s.eng := rfl
@[simp] theorem State.pushEvent_stepsLeft (e : Event) : (s.pushEvent e).stepsLeft = s.stepsLeft := rfl
@[simp] theorem State.pushEvent_draws (e : Event) : (s.pushEvent e).draws = s.draws := rfl
@[simp] theorem State.pushEvent_inst (e : Event) : (s.pushEvent e).inst = s.inst := rfl
@[simp] theorem State.pushEvent_ack (e : Event) : (s.pushEvent e).ack = s.ack := rfl
@[simp] theorem State.pushEvent_rdata (e : Event) : (s.pushEvent e).rdata = s.rdata := rfl
@[simp] theorem State.pushEvent_rerr (e : Event) : (s.pushEvent e).rerr = s.rerr := rfl
@[simp] theorem State.pushEvent_rst (e : Event) : (s.pushEvent e).rst = s.rst := rfl
@[simp] theorem State.pushEvent_events (e : Event) : (s.pushEvent e).events = e :: s.events := rfl

/-! ### enterReset -/

@[simp] theorem State.enterReset_ctrl : s.enterReset.ctrl = State.reset.ctrl := rfl
@[simp] theorem State.enterReset_busy : s.enterReset.busy = State.reset.busy := rfl
@[simp] theorem State.enterReset_done : s.enterReset.done = State.reset.done := rfl
@[simp] theorem State.enterReset_err : s.enterReset.err = State.reset.err := rfl
@[simp] theorem State.enterReset_ovr : s.enterReset.ovr = State.reset.ovr := rfl
@[simp] theorem State.enterReset_keyValid : s.enterReset.keyValid = State.reset.keyValid := rfl
@[simp] theorem State.enterReset_errcode : s.enterReset.errcode = State.reset.errcode := rfl
@[simp] theorem State.enterReset_lastop : s.enterReset.lastop = State.reset.lastop := rfl
@[simp] theorem State.enterReset_opa : s.enterReset.opa = State.reset.opa := rfl
@[simp] theorem State.enterReset_opb : s.enterReset.opb = State.reset.opb := rfl
@[simp] theorem State.enterReset_opm : s.enterReset.opm = State.reset.opm := rfl
@[simp] theorem State.enterReset_res : s.enterReset.res = State.reset.res := rfl
@[simp] theorem State.enterReset_keyN : s.enterReset.keyN = State.reset.keyN := rfl
@[simp] theorem State.enterReset_keyPhi : s.enterReset.keyPhi = State.reset.keyPhi := rfl
@[simp] theorem State.enterReset_keyE : s.enterReset.keyE = State.reset.keyE := rfl
@[simp] theorem State.enterReset_keyD : s.enterReset.keyD = State.reset.keyD := rfl
@[simp] theorem State.enterReset_lop : s.enterReset.lop = State.reset.lop := rfl
@[simp] theorem State.enterReset_la : s.enterReset.la = State.reset.la := rfl
@[simp] theorem State.enterReset_lb : s.enterReset.lb = State.reset.lb := rfl
@[simp] theorem State.enterReset_lm : s.enterReset.lm = State.reset.lm := rfl
@[simp] theorem State.enterReset_eng : s.enterReset.eng = Engine.reset := rfl
@[simp] theorem State.enterReset_stepsLeft : s.enterReset.stepsLeft = State.reset.stepsLeft := rfl
@[simp] theorem State.enterReset_draws : s.enterReset.draws = s.draws := rfl
@[simp] theorem State.enterReset_inst : s.enterReset.inst = s.inst := rfl
@[simp] theorem State.enterReset_ack : s.enterReset.ack = State.reset.ack := rfl
@[simp] theorem State.enterReset_rdata : s.enterReset.rdata = State.reset.rdata := rfl
@[simp] theorem State.enterReset_rerr : s.enterReset.rerr = State.reset.rerr := rfl
@[simp] theorem State.enterReset_rst : s.enterReset.rst = .held := rfl
@[simp] theorem State.enterReset_events : s.enterReset.events = s.events := rfl

/-! ### publish -/

@[simp] theorem State.publish_ctrl (o : CmdOutcome) : (s.publish o).ctrl = s.ctrl := by cases o <;> rfl
@[simp] theorem State.publish_ovr (o : CmdOutcome) : (s.publish o).ovr = s.ovr := by cases o <;> rfl
@[simp] theorem State.publish_lastop (o : CmdOutcome) : (s.publish o).lastop = s.lastop := by cases o <;> rfl
@[simp] theorem State.publish_opa (o : CmdOutcome) : (s.publish o).opa = s.opa := by cases o <;> rfl
@[simp] theorem State.publish_opb (o : CmdOutcome) : (s.publish o).opb = s.opb := by cases o <;> rfl
@[simp] theorem State.publish_opm (o : CmdOutcome) : (s.publish o).opm = s.opm := by cases o <;> rfl
@[simp] theorem State.publish_lop (o : CmdOutcome) : (s.publish o).lop = s.lop := by cases o <;> rfl
@[simp] theorem State.publish_la (o : CmdOutcome) : (s.publish o).la = s.la := by cases o <;> rfl
@[simp] theorem State.publish_lb (o : CmdOutcome) : (s.publish o).lb = s.lb := by cases o <;> rfl
@[simp] theorem State.publish_lm (o : CmdOutcome) : (s.publish o).lm = s.lm := by cases o <;> rfl
@[simp] theorem State.publish_eng (o : CmdOutcome) : (s.publish o).eng = s.eng := by cases o <;> rfl
@[simp] theorem State.publish_stepsLeft (o : CmdOutcome) : (s.publish o).stepsLeft = s.stepsLeft := by cases o <;> rfl
@[simp] theorem State.publish_draws (o : CmdOutcome) : (s.publish o).draws = s.draws := by cases o <;> rfl
@[simp] theorem State.publish_inst (o : CmdOutcome) : (s.publish o).inst = s.inst := by cases o <;> rfl
@[simp] theorem State.publish_ack (o : CmdOutcome) : (s.publish o).ack = s.ack := by cases o <;> rfl
@[simp] theorem State.publish_rdata (o : CmdOutcome) : (s.publish o).rdata = s.rdata := by cases o <;> rfl
@[simp] theorem State.publish_rerr (o : CmdOutcome) : (s.publish o).rerr = s.rerr := by cases o <;> rfl
@[simp] theorem State.publish_rst (o : CmdOutcome) : (s.publish o).rst = s.rst := by cases o <;> rfl
@[simp] theorem State.publish_events (o : CmdOutcome) : (s.publish o).events = s.events := by cases o <;> rfl
@[simp] theorem State.publish_busy (o : CmdOutcome) : (s.publish o).busy = false := by cases o <;> rfl

/-! ### The operands of the running command -/

@[simp] theorem State.respond_operands (v : Word) (b : Bool) : (s.respond v b).operands = s.operands := rfl
@[simp] theorem State.noResponse_operands : s.noResponse.operands = s.operands := rfl
@[simp] theorem State.w1c_operands (v : Word) : (s.w1c v).operands = s.operands := rfl
@[simp] theorem State.dropCommand_operands : s.dropCommand.operands = s.operands := rfl
@[simp] theorem State.completeRes_operands (v : Word) : (s.completeRes v).operands = s.operands := rfl
@[simp] theorem State.raiseError_operands (code : ErrCode) : (s.raiseError code).operands = s.operands := rfl
@[simp] theorem State.continueStep_operands (f : Micro) : (s.continueStep f).operands = s.operands := rfl
@[simp] theorem State.releaseReset_operands : s.releaseReset.operands = s.operands := rfl
@[simp] theorem State.leaveReset_operands : s.leaveReset.operands = s.operands := rfl
@[simp] theorem State.popEvent_operands : s.popEvent.operands = s.operands := rfl
@[simp] theorem State.pushEvent_operands (e : Event) : (s.pushEvent e).operands = s.operands := rfl

end Sys2Proof.Machine
end

