-- ==== Sys2Proof/Laws/Engine.lean ====
section
/-! SUPPORT. Microsequences: how runs compose, and that the run to the end finds what any long enough run has found. -/

namespace Sys2Proof.Machine

variable {f : Engine → Engine} {e e' : Engine} {m n : Nat}

@[simp] theorem microRun_zero (f : Engine → Engine) (e : Engine) : microRun f 0 e = e := rfl

theorem microRun_done (h : e.pending.isSome = true) (n : Nat) : microRun f n e = e := by
  cases n with
  | zero => rfl
  | succ n => simp [microRun, h]

theorem microRun_succ_of_none (h : e.pending = none) (n : Nat) : microRun f (n + 1) e = microRun f n (f e) := by
  simp [microRun, h]

theorem microRun_add (f : Engine → Engine) (m n : Nat) (e : Engine) :
    microRun f (m + n) e = microRun f n (microRun f m e) := by
  induction m generalizing e with
  | zero => simp
  | succ m ih =>
    rw [Nat.succ_add]
    by_cases h : e.pending.isSome = true
    · simp [microRun_done h]
    · have h' : e.pending = none := by simpa using h
      rw [microRun_succ_of_none h', microRun_succ_of_none h', ih]

/-- Two steps chained: what one run reaches, another can start from. -/
theorem microRun_trans {e₁ e₂ e₃ : Engine} (h₁ : microRun f m e₁ = e₂) (h₂ : microRun f n e₂ = e₃) :
    microRun f (m + n) e₁ = e₃ := by
  rw [microRun_add, h₁, h₂]

/-- Once a run of `k` microsteps has found the outcome, the run to the end, from anywhere on the way, ends where it did. -/
theorem microFinish_of_microRun {k : Nat} (hk : k ≤ microFuel) (hrun : microRun f k e = e') (hdone : e'.pending.isSome = true)
    (n : Nat) : microFinish f (microRun f n e) = e' := by
  rw [microFinish, ← microRun_add]
  obtain ⟨d, hd⟩ := Nat.exists_eq_add_of_le (show k ≤ n + microFuel by omega)
  rw [hd, microRun_add, hrun, microRun_done hdone]

/-- An outcome found within the fuel is found by the run to the end. -/
theorem microFinish_pending {k : Nat} {o : CmdOutcome} (hk : k ≤ microFuel) (h : (microRun f k e).pending = some o) (n : Nat) :
    (microFinish f (microRun f n e)).pending = some o := by
  rw [microFinish_of_microRun hk rfl (by simp [h]), h]

@[simp] theorem Engine.start_pending (e : Engine) (c : Command) : (e.start c).pending = none := rfl
@[simp] theorem Engine.start_unit (e : Engine) (c : Command) : (e.start c).unit = .load := rfl
@[simp] theorem Engine.start_kfsm (e : Engine) (c : Command) :
    (e.start c).kfsm = if c = .keygen then .kCheck else .kIdle := rfl

section retire

variable (draw : Config.WorkingReg → {w : Nat} → BitVec w → BitVec w) (e : Engine)

@[simp] theorem Engine.retire_kfsm : (e.retire draw).kfsm = .kIdle := rfl
@[simp] theorem Engine.retire_unit : (e.retire draw).unit = e.unit := rfl
@[simp] theorem Engine.retire_pending : (e.retire draw).pending = e.pending := rfl
@[simp] theorem Engine.retire_acc : (e.retire draw).acc = draw .acc e.acc := rfl
@[simp] theorem Engine.retire_base : (e.retire draw).base = draw .base e.base := rfl
@[simp] theorem Engine.retire_exp : (e.retire draw).exp = draw .exp e.exp := rfl
@[simp] theorem Engine.retire_ga : (e.retire draw).ga = draw .ga e.ga := rfl
@[simp] theorem Engine.retire_gb : (e.retire draw).gb = draw .gb e.gb := rfl
@[simp] theorem Engine.retire_r0 : (e.retire draw).r0 = draw .r0 e.r0 := rfl
@[simp] theorem Engine.retire_r1 : (e.retire draw).r1 = draw .r1 e.r1 := rfl
@[simp] theorem Engine.retire_t0 : (e.retire draw).t0 = draw .t0 e.t0 := rfl
@[simp] theorem Engine.retire_t1 : (e.retire draw).t1 = draw .t1 e.t1 := rfl
@[simp] theorem Engine.retire_mu : (e.retire draw).mu = draw .mu e.mu := rfl
@[simp] theorem Engine.retire_k : (e.retire draw).k = draw .k e.k := rfl
@[simp] theorem Engine.retire_x : (e.retire draw).x = draw .x e.x := rfl
@[simp] theorem Engine.retire_quo : (e.retire draw).quo = draw .quo e.quo := rfl
@[simp] theorem Engine.retire_rem : (e.retire draw).rem = draw .rem e.rem := rfl
@[simp] theorem Engine.retire_kn : (e.retire draw).kn = draw .kn e.kn := rfl
@[simp] theorem Engine.retire_kphi : (e.retire draw).kphi = draw .kphi e.kphi := rfl
@[simp] theorem Engine.retire_ke : (e.retire draw).ke = draw .ke e.ke := rfl
@[simp] theorem Engine.retire_kd : (e.retire draw).kd = draw .kd e.kd := rfl

end retire

end Sys2Proof.Machine
end

