-- ==== Sys2Proof/Laws/Ops.lean ====
section
/-! SUPPORT. Everything a shared operation can do, once each: the engine step, the command request, an event, a step. -/

namespace Sys2Proof.Machine

variable {f : Micro} {s t : State}

theorem engineStep_idle (f : Micro) (h : s.busy = false) : engineStep f s = .next s := by simp [engineStep, h]

theorem engineStep_continue (f : Micro) (hb : s.busy = true) (hl : 1 < s.stepsLeft) :
    engineStep f s = .next (s.continueStep f) := by simp [engineStep, hb, hl]

theorem engineStep_complete (f : Micro) (hb : s.busy = true) (hl : s.stepsLeft ≤ 1) :
    engineStep f s = .next (s.completeStep f) := by simp [engineStep, hb, Nat.not_lt.mpr hl]

theorem engineFirstStep_idle (f : Micro) (h : s.busy = false) : engineFirstStep f s = .next s := by
  simp [engineFirstStep, h]

theorem engineFirstStep_busy (f : Micro) (h : s.busy = true) : engineFirstStep f s = .next (s.completeStep f) := by
  simp [engineFirstStep, h]

/-- All an engine step can do. -/
theorem engineStep_cases (h : engineStep f s = .next t) :
    (s.busy = false ∧ t = s) ∨ (s.busy = true ∧ 1 < s.stepsLeft ∧ t = s.continueStep f) ∨
      (s.busy = true ∧ s.stepsLeft ≤ 1 ∧ t = s.completeStep f) := by
  cases hb : s.busy with
  | false => exact .inl ⟨rfl, by simpa [engineStep, hb] using h.symm⟩
  | true =>
    by_cases hl : 1 < s.stepsLeft
    · exact .inr (.inl ⟨rfl, hl, by simpa [engineStep, hb, hl] using h.symm⟩)
    · exact .inr (.inr ⟨rfl, by omega, by simpa [engineStep, hb, hl] using h.symm⟩)

/-- A completing step whose microsequence finds the outcome `o` publishes it. -/
theorem completeStep_of_pending {o : CmdOutcome} (h : (microFinish (f s.operands) s.eng).pending = some o) :
    s.completeStep f =
      { s with eng := (microFinish (f s.operands) s.eng).retire s.workingDraw, stepsLeft := 0 }.publish o := by
  simp [State.completeStep, h]

/-- All a completing step can do. -/
theorem completeStep_cases (f : Micro) (s : State) :
    (∃ o, (microFinish (f s.operands) s.eng).pending = some o ∧
      s.completeStep f = { s with eng := (microFinish (f s.operands) s.eng).retire s.workingDraw, stepsLeft := 0 }.publish o) ∨
    ((microFinish (f s.operands) s.eng).pending = none ∧
      s.completeStep f = { s with eng := microFinish (f s.operands) s.eng }) := by
  cases h : (microFinish (f s.operands) s.eng).pending with
  | some o => exact .inl ⟨o, rfl, completeStep_of_pending h⟩
  | none => exact .inr ⟨rfl, by simp [State.completeStep, h]⟩

theorem requestCommand_busy (h : s.busy = true) (w : Word) : s.requestCommand w = s.dropCommand := by
  simp [State.requestCommand, h]

theorem requestCommand_idle (h : s.busy = false) (w : Word) : s.requestCommand w = s.accept w := by
  simp [State.requestCommand, h]

theorem handleEvent_running (h : s.rst = .running) (e : Event) : handleEvent e s = runningEvent e s := by
  simp [handleEvent, h]

/-- A step is what its next event does, the event taken. -/
theorem step_cons {e : Event} {es : List Event} (h : s.events = e :: es) :
    step s = handleEvent e { s with events := es } := by
  simp [step, State.nextEvent, State.popEvent, h]

theorem step_nil (h : s.events = []) : step s = handleEvent .idleEdge { s with events := [] } := by
  simp [step, State.nextEvent, State.popEvent, h]

/-- The engine instruction of a state in which a command other than an illegal one is latched is that command. -/
theorem exec_engineInstr (s t : State) (h : s.lop ≠ .illegal) :
    exec s.engineInstr t = engineStep (microOf s.lop) t := by
  cases hl : s.lop with
  | illegal => exact absurd hl h
  | _ => simp [State.engineInstr, hl, exec, microOf, execGcd, execModinv, execModmul, execModexp, execKeygen, execEncrypt,
      execDecrypt]

/-- The engine instruction of a state in which an illegal command is latched raises the error at the first engine step. -/
theorem exec_engineInstr_illegal (s t : State) (h : s.lop = .illegal) :
    exec s.engineInstr t = engineFirstStep microIllegal t := by
  unfold State.engineInstr
  rw [h]
  dsimp only
  split_ifs <;> rfl

/-- What a host transaction makes of the registers, before the response. -/
inductive HostEffect (s : State) : State → Prop where
  /-- A read, an ignored write, or a malformed transaction. -/
  | none : HostEffect s s
  | ctrl (v : BitVec 3) : HostEffect s { s with ctrl := v }
  | status (v : Word) : HostEffect s (s.w1c v)
  | command (w : Word) : HostEffect s (s.requestCommand w)
  | opa (v : Word) : HostEffect s { s with opa := v }
  | opb (v : Word) : HostEffect s { s with opb := v }
  | opm (v : Word) : HostEffect s { s with opm := v }

/-- All a legal read can do: nothing but the response. -/
theorem exec_decodeRead (addr : BitVec 7) (s : State) : ∃ v, exec (decodeRead addr) s = .next (s.respond v false) := by
  unfold decodeRead
  split <;> exact ⟨_, rfl⟩

/-- All a legal write can do. -/
theorem exec_decodeWrite (addr : BitVec 7) (v : Word) (s : State) :
    ∃ s', HostEffect s s' ∧ exec (decodeWrite addr v) s = .next (s'.respond 0 false) := by
  unfold decodeWrite
  split
  case h_2 => exact ⟨_, .ctrl _, rfl⟩
  case h_3 => exact ⟨_, .status v, rfl⟩
  case h_4 => exact ⟨_, .command v, rfl⟩
  case h_5 => exact ⟨_, .opa v, rfl⟩
  case h_6 => exact ⟨_, .opb v, rfl⟩
  case h_7 => exact ⟨_, .opm v, rfl⟩
  all_goals exact ⟨_, .none, rfl⟩

/-- All a host transaction can do: one effect, then the response; an error response carries no data. -/
theorem exec_decodeTransaction (tr : Transaction) (s : State) :
    ∃ s' v b, HostEffect s s' ∧ (b = true → v = 0 ∧ s' = s) ∧ exec (decodeTransaction tr) s = .next (s'.respond v b) := by
  unfold decodeTransaction
  split
  · exact ⟨s, 0, true, .none, fun _ => ⟨rfl, rfl⟩, rfl⟩
  · split
    · obtain ⟨s', he, h⟩ := exec_decodeWrite tr.addr tr.wdata s
      exact ⟨s', 0, false, he, nofun, h⟩
    · obtain ⟨v, h⟩ := exec_decodeRead tr.addr s
      exact ⟨s, v, false, .none, nofun, h⟩

/-- A completing step keeps the instance's number. -/
@[simp] theorem State.completeStep_inst (f : Micro) (s : State) : (s.completeStep f).inst = s.inst := by
  obtain ⟨o, -, h⟩ | ⟨-, h⟩ := completeStep_cases f s <;> simp [h]

/-- The engine's instruction keeps the instance's number. -/
theorem exec_engineInstr_inst {u : State} (h : exec u.engineInstr s = .next t) : t.inst = s.inst := by
  by_cases hl : u.lop = .illegal
  · rw [exec_engineInstr_illegal u s hl] at h
    cases hb : s.busy with
    | false => rw [engineFirstStep_idle _ hb] at h; cases h; rfl
    | true => rw [engineFirstStep_busy _ hb] at h; cases h; simp
  · rw [exec_engineInstr u s hl] at h
    obtain ⟨-, rfl⟩ | ⟨-, -, rfl⟩ | ⟨-, -, rfl⟩ := engineStep_cases h <;> simp

/-- A host transaction keeps the instance's number. -/
theorem exec_decodeTransaction_inst {tr : Transaction} (h : exec (decodeTransaction tr) s = .next t) : t.inst = s.inst := by
  obtain ⟨s', v, b, he, -, hx⟩ := exec_decodeTransaction tr s
  rw [hx] at h
  cases h
  cases he with
  | command w => cases hb : s.busy <;> simp [requestCommand_idle, requestCommand_busy, hb]
  | _ => simp

/-- Every event keeps the instance's number (assumption 24). -/
theorem handleEvent_inst {e : Event} (h : handleEvent e s = .next t) : t.inst = s.inst := by
  unfold handleEvent at h
  split at h
  · cases e <;> simp [beforeFirstEvent] at h
    simp [← h]
  · cases h; cases e <;> simp [heldEvent]
  · cases h; cases e <;> simp [releasedEvent]
  · cases e with
    | transaction tr => exact exec_decodeTransaction_inst h
    | engineStep => exact exec_engineInstr_inst h
    | idleEdge => simpa using exec_engineInstr_inst h
    | resetAssert => cases h; simp
    | resetRelease => cases h; rfl

end Sys2Proof.Machine
end

