-- ==== Sys2Proof/Laws/PerInstr.lean ====
section
/-! SUPPORT. The family TableRow: what the encoder writes lies in the instruction's row of spec/opcode_table.json. -/

-- The theorems of this file are elaborated one after another: it needs far fewer threads.
set_option Elab.async false

namespace Sys2Proof.Laws

/-- A row's match and mask: over a command word, or over a transaction key. -/
inductive Row where
  | command (pattern mask : Word)
  | key (pattern mask : BitVec 8)

/-- An encoded instruction lies in a row. -/
def Row.holds : Row → Encoded → Bool
  | .command pattern mask, .commandWord w => w &&& mask == pattern
  | .key pattern mask, .transaction t => transactionKey t &&& mask == pattern
  | .command _ _, .transaction _ => false
  | .key _ _, .commandWord _ => false

/-- The row of each instruction. -/
def rowOf : Instr → Row
  | .gcd => .command 0x0000000000000001 0xFFFFFFFFFFFFFFFF
  | .modinv => .command 0x0000000000000002 0xFFFFFFFFFFFFFFFF
  | .modmul => .command 0x0000000000000003 0xFFFFFFFFFFFFFFFF
  | .modexp => .command 0x0000000000000004 0xFFFFFFFFFFFFFFFF
  | .keygen => .command 0x0000000000000005 0xFFFFFFFFFFFFFFFF
  | .encrypt => .command 0x0000000000000006 0xFFFFFFFFFFFFFFFF
  | .decrypt => .command 0x0000000000000007 0xFFFFFFFFFFFFFFFF
  | .illegalOp0 => .command 0x0000000000000000 0xFFFFFFFFFFFFFFFF
  | .illegalOp8F _ => .command 0x0000000000000008 0xFFFFFFFFFFFFFFF8
  | .illegalRsvd _ _ => .command 0x0000000000000000 0x0000000000000000
  | .rdId => .key 0x00 0xFF
  | .wrId _ => .key 0x80 0xFF
  | .rdCtrl => .key 0x08 0xFF
  | .wrCtrl _ => .key 0x88 0xFF
  | .rdStatus => .key 0x10 0xFF
  | .wrStatus _ => .key 0x90 0xFF
  | .rdCmd => .key 0x18 0xFF
  | .wrCmd _ => .key 0x98 0xFF
  | .rdOpa => .key 0x20 0xFF
  | .wrOpa _ => .key 0xA0 0xFF
  | .rdOpb => .key 0x28 0xFF
  | .wrOpb _ => .key 0xA8 0xFF
  | .rdOpm => .key 0x30 0xFF
  | .wrOpm _ => .key 0xB0 0xFF
  | .rdRes => .key 0x38 0xFF
  | .wrRes _ => .key 0xB8 0xFF
  | .rdKeyN => .key 0x40 0xFF
  | .wrKeyN _ => .key 0xC0 0xFF
  | .rdKeyPhi => .key 0x48 0xFF
  | .wrKeyPhi _ => .key 0xC8 0xFF
  | .rdKeyE => .key 0x50 0xFF
  | .wrKeyE _ => .key 0xD0 0xFF
  | .rdKeyD => .key 0x58 0xFF
  | .wrKeyD _ => .key 0xD8 0xFF
  | .rdReserved _ => .key 0x60 0xE7
  | .wrReserved _ _ => .key 0xE0 0xE7
  | .busError _ _ _ => .key 0x00 0x00

/-- The encoding of a well-formed instruction lies in its row. -/
def TableRow.Statement (i : Instr) : Prop := i.wellFormed = true → (rowOf i).holds (encode i) = true

theorem TableRow.gcd : Statement .gcd := fun _ => rfl

theorem TableRow.modinv : Statement .modinv := fun _ => rfl

theorem TableRow.modmul : Statement .modmul := fun _ => rfl

theorem TableRow.modexp : Statement .modexp := fun _ => rfl

theorem TableRow.keygen : Statement .keygen := fun _ => rfl

theorem TableRow.encrypt : Statement .encrypt := fun _ => rfl

theorem TableRow.decrypt : Statement .decrypt := fun _ => rfl

theorem TableRow.illegalOp0 : Statement .illegalOp0 := fun _ => rfl

theorem TableRow.illegalOp8F (op : BitVec 4) : Statement (.illegalOp8F op) := by
  intro h
  have h8 : op &&& 8 = 8 := by revert h; revert op; decide
  show ((0 : BitVec 60) ++ op &&& 0xFFFFFFFFFFFFFFF8 == 8) = true
  revert h8; revert op; decide

theorem TableRow.illegalRsvd (rsvd : BitVec 60) (op : BitVec 4) : Statement (.illegalRsvd rsvd op) := fun _ => by
  show ((rsvd ++ op : Word) &&& 0 == 0) = true
  simp

theorem TableRow.rdId : Statement (.rdId) := fun _ => rfl

theorem TableRow.wrId (v : Word) : Statement (.wrId v) := fun _ => by
  simp only [rowOf, encode, writeAt, Row.holds, transactionKey]; decide

theorem TableRow.rdCtrl : Statement (.rdCtrl) := fun _ => rfl

theorem TableRow.wrCtrl (v : Word) : Statement (.wrCtrl v) := fun _ => by
  simp only [rowOf, encode, writeAt, Row.holds, transactionKey]; decide

theorem TableRow.rdStatus : Statement (.rdStatus) := fun _ => rfl

theorem TableRow.wrStatus (v : Word) : Statement (.wrStatus v) := fun _ => by
  simp only [rowOf, encode, writeAt, Row.holds, transactionKey]; decide

theorem TableRow.rdCmd : Statement (.rdCmd) := fun _ => rfl

theorem TableRow.wrCmd (w : Word) : Statement (.wrCmd w) := fun _ => by
  simp only [rowOf, encode, writeAt, Row.holds, transactionKey]; decide

theorem TableRow.rdOpa : Statement (.rdOpa) := fun _ => rfl

theorem TableRow.wrOpa (v : Word) : Statement (.wrOpa v) := fun _ => by
  simp only [rowOf, encode, writeAt, Row.holds, transactionKey]; decide

theorem TableRow.rdOpb : Statement (.rdOpb) := fun _ => rfl

theorem TableRow.wrOpb (v : Word) : Statement (.wrOpb v) := fun _ => by
  simp only [rowOf, encode, writeAt, Row.holds, transactionKey]; decide

theorem TableRow.rdOpm : Statement (.rdOpm) := fun _ => rfl

theorem TableRow.wrOpm (v : Word) : Statement (.wrOpm v) := fun _ => by
  simp only [rowOf, encode, writeAt, Row.holds, transactionKey]; decide

theorem TableRow.rdRes : Statement (.rdRes) := fun _ => rfl

theorem TableRow.wrRes (v : Word) : Statement (.wrRes v) := fun _ => by
  simp only [rowOf, encode, writeAt, Row.holds, transactionKey]; decide

theorem TableRow.rdKeyN : Statement (.rdKeyN) := fun _ => rfl

theorem TableRow.wrKeyN (v : Word) : Statement (.wrKeyN v) := fun _ => by
  simp only [rowOf, encode, writeAt, Row.holds, transactionKey]; decide

theorem TableRow.rdKeyPhi : Statement (.rdKeyPhi) := fun _ => rfl

theorem TableRow.wrKeyPhi (v : Word) : Statement (.wrKeyPhi v) := fun _ => by
  simp only [rowOf, encode, writeAt, Row.holds, transactionKey]; decide

theorem TableRow.rdKeyE : Statement (.rdKeyE) := fun _ => rfl

theorem TableRow.wrKeyE (v : Word) : Statement (.wrKeyE v) := fun _ => by
  simp only [rowOf, encode, writeAt, Row.holds, transactionKey]; decide

theorem TableRow.rdKeyD : Statement (.rdKeyD) := fun _ => rfl

theorem TableRow.wrKeyD (v : Word) : Statement (.wrKeyD v) := fun _ => by
  simp only [rowOf, encode, writeAt, Row.holds, transactionKey]; decide

theorem TableRow.rdReserved (addr : BitVec 7) : Statement (.rdReserved addr) := by
  intro h
  have h' : reservedAddr addr = true := h
  show (transactionKey ⟨_, addr, _, _⟩ &&& 0xE7 == _) = true
  revert h'; clear h; simp only [transactionKey]; revert addr; decide

theorem TableRow.wrReserved (addr : BitVec 7) (v : Word) : Statement (.wrReserved addr v) := by
  intro h
  have h' : reservedAddr addr = true := h
  show (transactionKey ⟨_, addr, _, _⟩ &&& 0xE7 == _) = true
  revert h'; clear h; simp only [transactionKey]; revert addr; decide

theorem TableRow.busError (we : Bool) (addr : BitVec 7) (size : BitVec 4) : Statement (.busError we addr size) := fun _ => by
  show (transactionKey _ &&& 0 == 0) = true
  simp

end Sys2Proof.Laws
end

