-- ==== Sys2Proof/Laws/Units.lean ====
section
/-! SUPPORT. One specification lemma per unit (41_number_theory.md R122, R129, R139, R149): where its loop ends. -/

namespace Sys2Proof.Machine

/-! ### gcd_unit -/

/-- While `f` is `gcd_unit`'s iteration, it runs to `GB = 0` with the gcd in `GA` (R122). -/
theorem microRun_gcdIter {f : Engine → Engine} {P : Engine → Prop} (hp : ∀ e, P e → e.pending = none)
    (hf : ∀ e, P e → e.gb ≠ 0 → f e = gcdIter e ∧ P (gcdIter e)) (e : Engine) (he : P e) :
    ∃ k e', k ≤ e.gb.toNat ∧ microRun f k e = e' ∧ P e' ∧ e'.gb = 0 ∧ e'.ga.toNat = Nat.gcd e.ga.toNat e.gb.toNat := by
  induction h : e.gb.toNat using Nat.strong_induction_on generalizing e with
  | _ g ih =>
    by_cases h0 : e.gb = 0
    · exact ⟨0, e, by omega, rfl, he, h0, by simp [← h, h0]⟩
    · obtain ⟨hfe, hP⟩ := hf e he h0
      have hpos : 0 < e.gb.toNat := by
        rcases Nat.eq_zero_or_pos e.gb.toNat with h1 | h1
        · exact absurd (BitVec.eq_of_toNat_eq (by simpa using h1)) h0
        · exact h1
      have hgb : (gcdIter e).gb.toNat = e.ga.toNat % e.gb.toNat := by simp [gcdIter, divUnit]
      have hga : (gcdIter e).ga = e.gb := rfl
      have hlt : (gcdIter e).gb.toNat < g := by rw [hgb, ← h]; exact Nat.mod_lt _ hpos
      obtain ⟨k, e', hk, hr, hP', hz, hg⟩ := ih _ hlt (gcdIter e) hP rfl
      refine ⟨k + 1, e', by omega, ?_, hP', hz, ?_⟩
      · rw [microRun_succ_of_none (hp e he), hfe, hr]
      · rw [hg, hga, hgb, ← h, Nat.gcd_comm _ (_ % _), ← Nat.gcd_rec, Nat.gcd_comm]

/-! ### barrett_reduce -/

theorem bitlen_pos {m : Nat} (h : m ≠ 0) : 1 ≤ bitlen m := by simp [bitlen, h]

theorem lt_two_pow_bitlen (m : Nat) : m < 2 ^ bitlen m := by
  unfold bitlen
  split
  · simp_all
  · exact Nat.lt_log2_self

theorem two_pow_bitlen_le {m : Nat} (h : m ≠ 0) : 2 ^ (bitlen m - 1) ≤ m := by
  simp only [bitlen, h, if_false, Nat.add_sub_cancel]
  exact Nat.log2_self_le h

theorem bitlen_le {m n : Nat} (h : m < 2 ^ n) : bitlen m ≤ n := by
  unfold bitlen
  split
  · omega
  · exact (Nat.log2_lt ‹_›).mpr h

theorem barrettCorrect_eq_mod {m : Nat} (hm : 0 < m) (fuel r : Nat) (h : r ≤ fuel) : barrettCorrect fuel r m = r % m := by
  induction fuel generalizing r with
  | zero => obtain rfl : r = 0 := by omega
            simp [barrettCorrect]
  | succ n ih =>
    unfold barrettCorrect
    split
    · rw [ih _ (by omega), ← Nat.mod_eq_sub_mod ‹_›]
    · rw [Nat.mod_eq_of_lt (by omega)]

/-- The quotient estimate of R139 never exceeds the quotient. -/
theorem barrett_quotient_le (x : Nat) {m : Nat} (hm : m ≠ 0) :
    ((x >>> (bitlen m - 1)) * (2 ^ (2 * bitlen m) / m)) >>> (bitlen m + 1) * m ≤ x := by
  have hk := bitlen_pos hm
  simp only [Nat.shiftRight_eq_div_pow]
  have hpow : 2 ^ (bitlen m - 1) * 2 ^ (bitlen m + 1) = 2 ^ (2 * bitlen m) := by
    rw [← pow_add]; congr 1; omega
  have h1 : x / 2 ^ (bitlen m - 1) * 2 ^ (bitlen m - 1) ≤ x := Nat.div_mul_le_self _ _
  have h2 : 2 ^ (2 * bitlen m) / m * m ≤ 2 ^ (2 * bitlen m) := Nat.div_mul_le_self _ _
  have h3 := Nat.div_mul_le_self (x / 2 ^ (bitlen m - 1) * (2 ^ (2 * bitlen m) / m)) (2 ^ (bitlen m + 1))
  generalize x / 2 ^ (bitlen m - 1) = q1 at *
  generalize 2 ^ (2 * bitlen m) / m = mu at *
  generalize q1 * mu / 2 ^ (bitlen m + 1) = q3 at *
  refine Nat.le_of_mul_le_mul_right (c := 2 ^ (2 * bitlen m)) ?_ (by positivity)
  calc q3 * m * 2 ^ (2 * bitlen m) = (q3 * 2 ^ (bitlen m + 1)) * m * 2 ^ (bitlen m - 1) := by rw [← hpow]; ring
    _ ≤ (q1 * mu) * m * 2 ^ (bitlen m - 1) := by gcongr
    _ = (q1 * 2 ^ (bitlen m - 1)) * (mu * m) := by ring
    _ ≤ x * 2 ^ (2 * bitlen m) := by gcongr

/-- The constants of `barrett_reduce` for the modulus `m` are in place. -/
def BarrettReady (m : Word) (e : Engine) : Prop :=
  e.k.toNat = bitlen m.toNat ∧ e.mu.toNat = 2 ^ (2 * bitlen m.toNat) / m.toNat

theorem barrettSetup_ready (e : Engine) {m : Word} (hm : m ≠ 0) : BarrettReady m (barrettSetup m e) := by
  have hm' : m.toNat ≠ 0 := fun h => hm (BitVec.eq_of_toNat_eq (by simpa using h))
  have hk : bitlen m.toNat ≤ 64 := bitlen_le m.isLt
  have hk1 := bitlen_pos hm'
  have hmu : 2 ^ (2 * bitlen m.toNat) / m.toNat < 2 ^ 66 := by
    have h1 := two_pow_bitlen_le hm'
    calc 2 ^ (2 * bitlen m.toNat) / m.toNat ≤ 2 ^ (2 * bitlen m.toNat) / 2 ^ (bitlen m.toNat - 1) :=
          Nat.div_le_div_left h1 (by positivity)
      _ = 2 ^ (bitlen m.toNat + 1) := by
          rw [Nat.pow_div (by omega) (by omega)]; congr 1; omega
      _ < 2 ^ 66 := Nat.pow_lt_pow_right (by omega) (by omega)
  refine ⟨?_, ?_⟩
  · simp [barrettSetup]; omega
  · simpa [barrettSetup] using hmu

/-- `barrett(x, m) = x mod m` exactly (R139). -/
theorem barrettReduce_eq_mod {m : Word} {e : Engine} (hm : m ≠ 0) (h : BarrettReady m e) (x : DWord) :
    (barrettReduce e m x).toNat = x.toNat % m.toNat := by
  have hm' : m.toNat ≠ 0 := fun h => hm (BitVec.eq_of_toNat_eq (by simpa using h))
  have hpos : 0 < m.toNat := Nat.pos_of_ne_zero hm'
  obtain ⟨hk, hmu⟩ := h
  have hle := barrett_quotient_le x.toNat hm'
  simp only [barrettReduce, barrettEstimate, hk, hmu, BitVec.toNat_ofNat]
  rw [barrettCorrect_eq_mod hpos _ _ le_rfl, Nat.mul_comm _ m.toNat, Nat.sub_mul_mod (by rwa [Nat.mul_comm] at hle)]
  exact Nat.mod_eq_of_lt (lt_of_lt_of_le (Nat.mod_lt _ hpos) (Nat.le_of_lt m.isLt))

theorem wideProduct_toNat (a b : Word) : (wideProduct a b).toNat = a.toNat * b.toNat := by
  have h : a.toNat * b.toNat < 2 ^ 64 * 2 ^ 64 := Nat.mul_lt_mul'' a.isLt b.isLt
  simp only [wideProduct, BitVec.toNat_ofNat]
  exact Nat.mod_eq_of_lt (by omega)

/-! ### modexp_engine -/

/-- One iteration of R149 keeps `ACC * BASE ^ EXP mod m`. -/
theorem modexpIter_spec {m : Word} {e : Engine} (hm : m ≠ 0) (hr : BarrettReady m e) :
    BarrettReady m (modexpIter m e) ∧ (modexpIter m e).exp = e.exp >>> 1 ∧
      (modexpIter m e).acc.toNat * (modexpIter m e).base.toNat ^ (modexpIter m e).exp.toNat ≡
        e.acc.toNat * e.base.toNat ^ e.exp.toNat [MOD m.toNat] := by
  have hready : BarrettReady m (modexpMultiply m e) := by unfold modexpMultiply; split <;> exact hr
  have hexp : (modexpIter m e).exp = e.exp >>> 1 := by
    simp only [modexpIter, modexpSquare, modexpMultiply]; split <;> rfl
  have hbase0 : (modexpMultiply m e).base = e.base := by unfold modexpMultiply; split <;> rfl
  have hbase : (modexpIter m e).base.toNat = (e.base.toNat * e.base.toNat) % m.toNat := by
    have : (modexpIter m e).base = barrettReduce (modexpMultiply m e) m (wideProduct e.base e.base) := by
      simp only [modexpIter, modexpSquare, hbase0]
    rw [this, barrettReduce_eq_mod hm hready, wideProduct_toNat]
  have hacc : (modexpIter m e).acc.toNat =
      if e.exp.getLsbD 0 then (e.acc.toNat * e.base.toNat) % m.toNat else e.acc.toNat := by
    have : (modexpIter m e).acc = (modexpMultiply m e).acc := rfl
    rw [this]
    unfold modexpMultiply
    split
    · rw [← wideProduct_toNat, ← barrettReduce_eq_mod hm hr]
    · rfl
  refine ⟨hready, hexp, ?_⟩
  have hexpN : (modexpIter m e).exp.toNat = e.exp.toNat / 2 := by
    rw [hexp]; simp [Nat.shiftRight_eq_div_pow]
  have hodd : e.exp.getLsbD 0 = decide (e.exp.toNat % 2 = 1) := by
    simp [BitVec.getLsbD, Nat.testBit_zero]
  rw [hbase, hacc, hexpN, hodd]
  have hsq : ((e.base.toNat * e.base.toNat) % m.toNat) ^ (e.exp.toNat / 2) ≡ e.base.toNat ^ (2 * (e.exp.toNat / 2)) [MOD m.toNat] := by
    rw [pow_mul, pow_two]
    exact (Nat.mod_modEq _ _).pow _
  by_cases ho : e.exp.toNat % 2 = 1
  · simp only [ho, decide_true, if_true]
    have hdecomp : e.exp.toNat = 2 * (e.exp.toNat / 2) + 1 := by omega
    calc _ ≡ (e.acc.toNat * e.base.toNat) * e.base.toNat ^ (2 * (e.exp.toNat / 2)) [MOD m.toNat] :=
          (Nat.mod_modEq _ _).mul hsq
      _ = e.acc.toNat * e.base.toNat ^ (2 * (e.exp.toNat / 2) + 1) := by ring
      _ = e.acc.toNat * e.base.toNat ^ e.exp.toNat := by rw [← hdecomp]
      _ ≡ _ [MOD m.toNat] := Nat.ModEq.rfl
  · simp only [ho, decide_false, if_false, Bool.false_eq_true]
    have hdecomp : e.exp.toNat = 2 * (e.exp.toNat / 2) := by omega
    calc _ ≡ e.acc.toNat * e.base.toNat ^ (2 * (e.exp.toNat / 2)) [MOD m.toNat] := Nat.ModEq.rfl.mul hsq
      _ = e.acc.toNat * e.base.toNat ^ e.exp.toNat := by rw [← hdecomp]
      _ ≡ _ [MOD m.toNat] := Nat.ModEq.rfl

theorem modexpIter_acc_lt {m : Word} {e : Engine} (hm : m ≠ 0) (hr : BarrettReady m e) (h : e.acc.toNat < m.toNat) :
    (modexpIter m e).acc.toNat < m.toNat := by
  have hacc : (modexpIter m e).acc = (modexpMultiply m e).acc := rfl
  rw [hacc]
  unfold modexpMultiply
  split
  · simp only [barrettReduce_eq_mod hm hr]; exact Nat.mod_lt _ (by omega)
  · exact h

/-- While `f` is `modexp_engine`'s iteration, it runs to `EXP = 0` with the power in `ACC` (R149). -/
theorem microRun_modexpIter {f : Engine → Engine} {P : Engine → Prop} {m : Word} (hm : m ≠ 0) (hp : ∀ e, P e → e.pending = none)
    (hf : ∀ e, P e → e.exp ≠ 0 → f e = modexpIter m e ∧ P (modexpIter m e)) (e : Engine) (he : P e) (hr : BarrettReady m e)
    (hacc : e.acc.toNat < m.toNat) :
    ∃ k e', k ≤ e.exp.toNat ∧ microRun f k e = e' ∧ P e' ∧ e'.exp = 0 ∧
      e'.acc.toNat = (e.acc.toNat * e.base.toNat ^ e.exp.toNat) % m.toNat := by
  induction h : e.exp.toNat using Nat.strong_induction_on generalizing e with
  | _ g ih =>
    by_cases h0 : e.exp = 0
    · refine ⟨0, e, by omega, rfl, he, h0, ?_⟩
      obtain rfl : g = 0 := by simp [← h, h0]
      simp [Nat.mod_eq_of_lt hacc]
    · obtain ⟨hfe, hP⟩ := hf e he h0
      have hpos : 0 < e.exp.toNat := by
        rcases Nat.eq_zero_or_pos e.exp.toNat with h1 | h1
        · exact absurd (BitVec.eq_of_toNat_eq (by simpa using h1)) h0
        · exact h1
      obtain ⟨hr', hexp, hmod⟩ := modexpIter_spec hm hr
      have hlt : (modexpIter m e).exp.toNat < g := by
        rw [hexp, ← h]; simp [Nat.shiftRight_eq_div_pow]; omega
      obtain ⟨k, e', hk, hrun, hP', hz, hv⟩ := ih _ hlt (modexpIter m e) hP hr' (modexpIter_acc_lt hm hr hacc) rfl
      refine ⟨k + 1, e', by omega, ?_, hP', hz, ?_⟩
      · rw [microRun_succ_of_none (hp e he), hfe, hrun]
      · rw [hv, ← h]; exact hmod

/-! ### modinv_engine -/

/-- The invariant of the loop of R129 on `(a, m)`: the coefficients express the remainders, with alternating signs `σ`, and are
bounded by `m` (so W + 2 signed bits hold them). -/
structure BezoutInv (a m : Nat) (σ : Int) (e : Engine) : Prop where
  sign : σ = 1 ∨ σ = -1
  cross : e.t0.toInt * e.r1.toNat - e.t1.toInt * e.r0.toNat = σ * m
  sign0 : 0 ≤ σ * e.t0.toInt
  sign1 : σ * e.t1.toInt ≤ 0
  bound0 : |e.t0.toInt| ≤ m
  bound1 : |e.t1.toInt| ≤ m
  pos : 0 < e.r0.toNat
  combine0 : (m : Int) ∣ e.t0.toInt * a - e.r0.toNat
  combine1 : (m : Int) ∣ e.t1.toInt * a - e.r1.toNat
  gcd : Nat.gcd e.r0.toNat e.r1.toNat = Nat.gcd m a

theorem toInt_ofInt66 {x : Int} {m : Nat} (h : |x| ≤ m) (hm : m < 2 ^ 64) : (BitVec.ofInt 66 x).toInt = x := by
  rw [BitVec.toInt_ofInt]
  have := abs_le.mp h
  exact Int.bmod_eq_of_le (by omega) (by omega)

theorem modinvIter_spec {a m : Nat} {σ : Int} {e : Engine} (hm : m < 2 ^ 64) (h : BezoutInv a m σ e) (h1 : e.r1 ≠ 0) :
    BezoutInv a m (-σ) (modinvIter e) ∧ (modinvIter e).r1.toNat = e.r0.toNat % e.r1.toNat := by
  have hpos1 : 0 < e.r1.toNat := by
    rcases Nat.eq_zero_or_pos e.r1.toNat with h2 | h2
    · exact absurd (BitVec.eq_of_toNat_eq (by simpa using h2)) h1
    · exact h2
  obtain ⟨q, hq⟩ : ∃ q, q = e.r0.toNat / e.r1.toNat := ⟨_, rfl⟩
  have hquo : (divUnit e.r0 e.r1 e).quo.toNat = q := by simp [divUnit, hq]
  have hmod : e.r0.toNat - q * e.r1.toNat = e.r0.toNat % e.r1.toNat := by
    rw [hq, Nat.mod_eq_sub_div_mul]
  have hle : q * e.r1.toNat ≤ e.r0.toNat := hq ▸ Nat.div_mul_le_self _ _
  have hr1 : (modinvIter e).r1.toNat = e.r0.toNat % e.r1.toNat := by
    simp only [modinvIter, hquo, hmod, BitVec.toNat_ofNat]
    exact Nat.mod_eq_of_lt (lt_of_le_of_lt (Nat.mod_le _ _) e.r0.isLt)
  have hr1i : ((modinvIter e).r1.toNat : Int) = e.r0.toNat - q * e.r1.toNat := by
    rw [hr1, ← hmod]; push_cast [hle]; ring
  have hr0 : (modinvIter e).r0 = e.r1 := rfl
  have ht0 : (modinvIter e).t0 = e.t1 := rfl
  -- the exact new coefficient obeys the crossed equation, hence the bound
  obtain ⟨t, ht⟩ : ∃ t : Int, t = e.t0.toInt - q * e.t1.toInt := ⟨_, rfl⟩
  have hcross : e.t1.toInt * (e.r0.toNat - q * e.r1.toNat) - t * e.r1.toNat = -σ * m := by
    rw [ht]; linarith [h.cross, mul_comm (q : Int) (e.r1.toNat : Int)]
  have hs1 : -σ * t ≤ 0 := by
    have := h.sign0; have h2 := h.sign1
    have : (q : Int) * (σ * e.t1.toInt) ≤ 0 := mul_nonpos_of_nonneg_of_nonpos (by positivity) h2
    rw [ht]; nlinarith
  have hs0 : 0 ≤ -σ * e.t1.toInt := by have := h.sign1; linarith
  have hrem : (0 : Int) ≤ e.r0.toNat - q * e.r1.toNat := by
    have : ((q * e.r1.toNat : Nat) : Int) ≤ e.r0.toNat := by exact_mod_cast hle
    push_cast at this; linarith
  have hb : |t| ≤ m := by
    have hr : (1 : Int) ≤ e.r1.toNat := by exact_mod_cast hpos1
    rcases h.sign with hs | hs <;> subst hs
    · have ht' : 0 ≤ t := by linarith
      have h3 : 0 ≤ -e.t1.toInt := by linarith
      have h4 : t * e.r1.toNat = m + e.t1.toInt * (e.r0.toNat - q * e.r1.toNat) := by linarith
      have h5 := mul_nonneg h3 hrem
      rw [abs_of_nonneg ht']; nlinarith
    · have ht' : t ≤ 0 := by linarith
      have h3 : 0 ≤ e.t1.toInt := by linarith
      have h4 : -t * e.r1.toNat = m - e.t1.toInt * (e.r0.toNat - q * e.r1.toNat) := by linarith
      have h5 := mul_nonneg h3 hrem
      rw [abs_of_nonpos ht']; nlinarith
  have ht1 : (modinvIter e).t1.toInt = t := by
    have : (modinvIter e).t1 = BitVec.ofInt 66 t := by simp only [modinvIter, hquo, ht]
    rw [this, toInt_ofInt66 hb hm]
  refine ⟨⟨?_, ?_, ?_, ?_, ?_, ?_, ?_, ?_, ?_, ?_⟩, hr1⟩
  · rcases h.sign with hs | hs <;> simp [hs]
  · rw [ht0, ht1, hr0, hr1i]; exact hcross
  · rw [ht0]; exact hs0
  · rw [ht1]; exact hs1
  · rw [ht0]; exact h.bound1
  · rw [ht1]; exact hb
  · rw [hr0]; exact hpos1
  · rw [ht0, hr0]; exact h.combine1
  · rw [ht1, hr1i]
    have := dvd_sub h.combine0 (Dvd.dvd.mul_left h.combine1 (q : Int))
    have heq : (e.t0.toInt - q * e.t1.toInt) * a - (e.r0.toNat - q * e.r1.toNat : Int) =
        e.t0.toInt * a - e.r0.toNat - q * (e.t1.toInt * a - e.r1.toNat) := by ring
    rw [ht, heq]; exact this
  · rw [hr0, hr1, ← Nat.gcd_comm, ← Nat.gcd_rec, Nat.gcd_comm]; exact h.gcd

/-- The load of R129 establishes the invariant. -/
theorem modinvLoad_inv (a m : Word) (e : Engine) (hm : m ≠ 0) :
    BezoutInv (a.toNat % m.toNat) m.toNat (-1) (modinvLoad a m e) := by
  have hpos : 0 < m.toNat := Nat.pos_of_ne_zero fun h => hm (BitVec.eq_of_toNat_eq (by simpa using h))
  constructor
  · simp
  all_goals simp [modinvLoad, red]
  all_goals omega

/-- While `f` is `modinv_engine`'s iteration, it runs to `R1 = 0` with the gcd in `R0` (R129). -/
theorem microRun_modinvIter {f : Engine → Engine} {P : Engine → Prop} {a m : Nat} (hm : m < 2 ^ 64)
    (hp : ∀ e, P e → e.pending = none)
    (hf : ∀ e, P e → e.r1 ≠ 0 → f e = modinvIter e ∧ P (modinvIter e)) (e : Engine) (he : P e) (σ : Int)
    (hi : BezoutInv a m σ e) :
    ∃ k e' σ', k ≤ e.r1.toNat ∧ microRun f k e = e' ∧ P e' ∧ e'.r1 = 0 ∧ e'.r0.toNat = Nat.gcd m a ∧ BezoutInv a m σ' e' := by
  induction h : e.r1.toNat using Nat.strong_induction_on generalizing e σ with
  | _ g ih =>
    by_cases h0 : e.r1 = 0
    · exact ⟨0, e, σ, by omega, rfl, he, h0, by simpa [h0] using hi.gcd, hi⟩
    · obtain ⟨hfe, hP⟩ := hf e he h0
      obtain ⟨hi', hr1⟩ := modinvIter_spec hm hi h0
      have hpos : 0 < e.r1.toNat := by
        rcases Nat.eq_zero_or_pos e.r1.toNat with h1 | h1
        · exact absurd (BitVec.eq_of_toNat_eq (by simpa using h1)) h0
        · exact h1
      have hlt : (modinvIter e).r1.toNat < g := by rw [hr1, ← h]; exact Nat.mod_lt _ hpos
      obtain ⟨k, e', σ', hk, hr, hrest⟩ := ih _ hlt (modinvIter e) hP _ hi' rfl
      exact ⟨k + 1, e', σ', by omega, by rw [microRun_succ_of_none (hp e he), hfe, hr], hrest⟩

/-- At the loop's end with `R0 = 1` and `m > 1`, the normalised coefficient is the inverse (R129). -/
theorem modinvNormalise_spec {a : Nat} {m : Word} {σ : Int} {e : Engine} (hm : 1 < m.toNat) (h : BezoutInv a m.toNat σ e)
    (h0 : e.r0.toNat = 1) :
    let x := (BitVec.ofInt 64 (modinvNormalise m e).t0.toInt).toNat
    x < m.toNat ∧ (a * x) % m.toNat = 1 := by
  have hmlt := m.isLt
  have hc := h.combine0
  rw [h0] at hc
  have habs := abs_le.mp h.bound0
  have hne : e.t0.toInt ≠ m.toNat ∧ e.t0.toInt ≠ -m.toNat := by
    have key : ∀ t : Int, (m.toNat : Int) ∣ t → ¬ (m.toNat : Int) ∣ t * a - (1 : Nat) := by
      intro t ht hd
      have h1 : (m.toNat : Int) ∣ 1 := by
        have := dvd_sub (Dvd.dvd.mul_right ht (a : Int)) hd
        simpa using this
      have := Int.le_of_dvd (by omega) h1
      omega
    exact ⟨fun he => key _ (by simp) (he ▸ hc), fun he => key _ (by simp) (he ▸ hc)⟩
  obtain ⟨x, hx0, hxm, hxd, hxe⟩ : ∃ x : Int, 0 ≤ x ∧ x < m.toNat ∧ (m.toNat : Int) ∣ x * a - 1 ∧
      (modinvNormalise m e).t0.toInt = x := by
    unfold modinvNormalise
    split
    · refine ⟨e.t0.toInt + m.toNat, by omega, by omega, ?_, ?_⟩
      · have := dvd_add hc (Dvd.intro (a : Int) rfl : (m.toNat : Int) ∣ m.toNat * a)
        have heq : (e.t0.toInt + m.toNat) * a - 1 = e.t0.toInt * a - (1 : Nat) + m.toNat * a := by push_cast; ring
        rw [heq]; exact this
      · exact toInt_ofInt66 (m := m.toNat) (abs_le.mpr ⟨by omega, by omega⟩) hmlt
    · exact ⟨e.t0.toInt, by omega, by omega, by simpa using hc, rfl⟩
  obtain ⟨n, rfl⟩ := Int.eq_ofNat_of_zero_le hx0
  have hn : n < m.toNat := by exact_mod_cast hxm
  have hval : (BitVec.ofInt 64 (modinvNormalise m e).t0.toInt).toNat = n := by
    rw [hxe]
    simp
    omega
  refine ⟨by rw [hval]; exact hn, ?_⟩
  rw [hval]
  have h2 : ((n * a : Nat) : Int) ≡ ((1 : Nat) : Int) [ZMOD m.toNat] := by
    apply Int.ModEq.symm
    rw [Int.modEq_iff_dvd]
    push_cast; exact hxd
  have h3 : n * a ≡ 1 [MOD m.toNat] := (Int.natCast_modEq_iff).mp h2
  rw [Nat.mul_comm]
  have := h3
  rw [Nat.ModEq, Nat.mod_eq_of_lt hm] at this
  exact this

end Sys2Proof.Machine
end

