-- ==== Sys2Proof/Tests/Slice0.lean ====
section
/-! SUPPORT. Tests: the WellFormed smoke, the decoding of every constructor, the spec's vectors (95_test_vectors.md), and the
witnesses that meet the hypotheses of the statements. -/

-- The theorems of this file are elaborated one after another: it needs far fewer threads.
set_option Elab.async false

namespace Sys2Proof.Tests

open Sys2Proof.Machine

/-! ### WellFormed refuses an ill-formed term for each check -/

theorem test_wf_illegal_op_below_8 : (Instr.illegalOp8F 7).wellFormed = false := by decide
theorem test_wf_illegal_rsvd_zero : (Instr.illegalRsvd 0 5).wellFormed = false := by decide
theorem test_wf_reserved_read_of_opa : (Instr.rdReserved 0x20).wellFormed = false := by decide
theorem test_wf_reserved_write_misaligned : (Instr.wrReserved 0x61 0).wellFormed = false := by decide
theorem test_wf_bus_error_of_legal : (Instr.busError false 0x20 8).wellFormed = false := by decide

/-! ### Decoding of every constructor, from words written out by hand (30_encoding.md R83-R86, 44_host_access.md R201-R209) -/

theorem test_decode_command_words :
    decode (.commandWord 0x0000000000000000) = .illegalOp0 ∧ decode (.commandWord 0x0000000000000001) = .gcd ∧
      decode (.commandWord 0x0000000000000002) = .modinv ∧ decode (.commandWord 0x0000000000000003) = .modmul ∧
      decode (.commandWord 0x0000000000000004) = .modexp ∧ decode (.commandWord 0x0000000000000005) = .keygen ∧
      decode (.commandWord 0x0000000000000006) = .encrypt ∧ decode (.commandWord 0x0000000000000007) = .decrypt ∧
      decode (.commandWord 0x0000000000000008) = .illegalOp8F 8 ∧ decode (.commandWord 0x0000000000000011) = .illegalRsvd 1 1 ∧
      decode (.commandWord 0x8000000000000000) = .illegalRsvd 0x800000000000000 0 := by decide

theorem test_decode_reads :
    decode (.transaction ⟨false, 0b0000000, 8, 9⟩) = .rdId ∧ decode (.transaction ⟨false, 0b0001000, 8, 9⟩) = .rdCtrl ∧
      decode (.transaction ⟨false, 0b0010000, 8, 9⟩) = .rdStatus ∧ decode (.transaction ⟨false, 0b0011000, 8, 9⟩) = .rdCmd ∧
      decode (.transaction ⟨false, 0b0100000, 8, 9⟩) = .rdOpa ∧ decode (.transaction ⟨false, 0b0101000, 8, 9⟩) = .rdOpb ∧
      decode (.transaction ⟨false, 0b0110000, 8, 9⟩) = .rdOpm ∧ decode (.transaction ⟨false, 0b0111000, 8, 9⟩) = .rdRes ∧
      decode (.transaction ⟨false, 0b1000000, 8, 9⟩) = .rdKeyN ∧ decode (.transaction ⟨false, 0b1001000, 8, 9⟩) = .rdKeyPhi ∧
      decode (.transaction ⟨false, 0b1010000, 8, 9⟩) = .rdKeyE ∧ decode (.transaction ⟨false, 0b1011000, 8, 9⟩) = .rdKeyD ∧
      decode (.transaction ⟨false, 0b1100000, 8, 9⟩) = .rdReserved 0x60 ∧
      decode (.transaction ⟨false, 0b1111000, 8, 9⟩) = .rdReserved 0x78 := by decide

theorem test_decode_writes :
    decode (.transaction ⟨true, 0b0000000, 8, 9⟩) = .wrId 9 ∧ decode (.transaction ⟨true, 0b0001000, 8, 9⟩) = .wrCtrl 9 ∧
      decode (.transaction ⟨true, 0b0010000, 8, 9⟩) = .wrStatus 9 ∧ decode (.transaction ⟨true, 0b0011000, 8, 9⟩) = .wrCmd 9 ∧
      decode (.transaction ⟨true, 0b0100000, 8, 9⟩) = .wrOpa 9 ∧ decode (.transaction ⟨true, 0b0101000, 8, 9⟩) = .wrOpb 9 ∧
      decode (.transaction ⟨true, 0b0110000, 8, 9⟩) = .wrOpm 9 ∧ decode (.transaction ⟨true, 0b0111000, 8, 9⟩) = .wrRes 9 ∧
      decode (.transaction ⟨true, 0b1000000, 8, 9⟩) = .wrKeyN 9 ∧ decode (.transaction ⟨true, 0b1001000, 8, 9⟩) = .wrKeyPhi 9 ∧
      decode (.transaction ⟨true, 0b1010000, 8, 9⟩) = .wrKeyE 9 ∧ decode (.transaction ⟨true, 0b1011000, 8, 9⟩) = .wrKeyD 9 ∧
      decode (.transaction ⟨true, 0b1101000, 8, 9⟩) = .wrReserved 0x68 9 := by decide

theorem test_decode_bus_errors :
    decode (.transaction ⟨false, 0x04, 8, 0⟩) = .busError false 0x04 8 ∧
      decode (.transaction ⟨true, 0x18, 4, 4⟩) = .busError true 0x18 4 ∧
      decode (.transaction ⟨false, 0x10, 0, 0⟩) = .busError false 0x10 0 := by decide

theorem test_decode_table_words :
    decodeTableWord 64 5 = some .keygen ∧ decodeTableWord 64 0xF = some (.illegalOp8F 0xF) ∧
      decodeTableWord 8 0x98 = some (.wrCmd 0) ∧ decodeTableWord 8 0x58 = some .rdKeyD ∧
      decodeTableWord 8 0x01 = some (.busError false 1 8) ∧ decodeTableWord 8 0x100 = none := by decide

/-! ### Small states and readings -/

/-- The reset state with operands, and the command word `w` accepted: its next engine step is its last. -/
def accepted (a b m w : Word) : State :=
  { { State.reset with opa := a, opb := b, opm := m }.accept w with stepsLeft := 1 }

/-- The key K61 of 95_test_vectors.md in place. -/
def keyed (s : State) : State :=
  { s with keyValid := true, keyN := 3233, keyPhi := 3120, keyE := 7, keyD := 1783 }

/-- A property of the next state, if there is one. -/
def nextIs (a : Answer) (p : State → Bool) : Bool :=
  match a with
  | .next t => p t
  | .fault _ => false
  | .refused _ => false

theorem nextIs_elim {a : Answer} {p : State → Bool} (h : nextIs a p = true) : ∃ t, a = .next t ∧ p t = true := by
  cases a with
  | next t => exact ⟨t, rfl, h⟩
  | fault r => exact absurd h (by simp [nextIs])
  | refused r => exact absurd h (by simp [nextIs])

/-- An answer that publishes a result under a STATUS value. -/
def publishes (a : Answer) (res status : Word) : Bool := nextIs a fun t => t.res == res && t.statusWord == status

/-! ### Vectors of 95_test_vectors.md -/

/-- Section 2.1. -/
theorem test_gcd_example : publishes (exec .gcd (accepted 48 18 0 1)) 6 0x10002 = true := by decide
theorem test_gcd_zero_zero : publishes (exec .gcd (accepted 0 0 0 1)) 0 0x10002 = true := by decide
/-- Section 2.2. -/
theorem test_modinv_example : publishes (exec .modinv (accepted 7 0 3120 2)) 1783 0x20002 = true := by decide +kernel
theorem test_modinv_full_width :
    publishes (exec .modinv (accepted 0xFFFFFFFFFFFFFFFF 0 0xFFFFFFFFFFFFFFC5 2)) 0x1611A7B9611A7B91 0x20002 = true := by
  decide +kernel
theorem test_modinv_no_inverse : publishes (exec .modinv (accepted 2 0 4 2)) 0 0x20304 = true := by decide
theorem test_modinv_modulus_one : publishes (exec .modinv (accepted 5 0 1 2)) 0 0x20002 = true := by decide
/-- Section 2.3. -/
theorem test_modmul_full_width :
    publishes (exec .modmul (accepted 0xFFFFFFFFFFFFFFFF 0xFFFFFFFFFFFFFFFE 0xFFFFFFFFFFFFFFC5 3)) 3306 0x30002 = true := by
  decide +kernel
theorem test_modmul_zero_modulus : publishes (exec .modmul (accepted 5 7 0 3)) 0 0x30204 = true := by decide
/-- Section 2.4. -/
theorem test_modexp_example : publishes (exec .modexp (accepted 4 13 497 4)) 445 0x40002 = true := by decide +kernel
theorem test_modexp_full_width :
    publishes (exec .modexp (accepted 0xFFFFFFFFFFFFFFFF 0xFFFFFFFFFFFFFFFF 0xFFFFFFFFFFFFFFC5 4)) 4959809447704153900 0x40002
      = true := by decide +kernel
/-- Section 2.5. -/
theorem test_keygen_example :
    nextIs (exec .keygen (accepted 61 53 0 5)) (fun t => t.keyN == 3233 && t.keyPhi == 3120 && t.keyE == 7 && t.keyD == 1783
      && t.statusWord == 0x50012) = true := by decide +kernel
theorem test_keygen_odd_totient :
    nextIs (exec .keygen (accepted 4 6 0 5)) (fun t => t.keyN == 24 && t.keyPhi == 15 && t.keyE == 7 && t.keyD == 13) = true := by
  decide +kernel
theorem test_keygen_overflow : publishes (exec .keygen (accepted 0x100000000 0x100000001 0 5)) 0 0x50504 = true := by
  decide +kernel
theorem test_keygen_locked : publishes (exec .keygen (keyed (accepted 2 3 0 5))) 0 0x50814 = true := by decide
/-- Section 2.6. -/
theorem test_encrypt_example : publishes (exec .encrypt (keyed (accepted 65 0 0 6))) 1317 0x60012 = true := by decide +kernel
theorem test_decrypt_example : publishes (exec .decrypt (keyed (accepted 1317 0 0 7))) 65 0x70012 = true := by decide +kernel
theorem test_encrypt_no_key : publishes (exec .encrypt (accepted 65 0 0 6)) 0 0x60704 = true := by decide
/-- Section 2.7, M3, M5, M6. -/
theorem test_illegal_op0 : publishes (exec .illegalOp0 (accepted 0 0 0 0)) 0 0x00104 = true := by decide
theorem test_illegal_op_f : publishes (exec (.illegalOp8F 0xF) (accepted 0 0 0 0xF)) 0 0xF0104 = true := by decide
theorem test_illegal_rsvd : publishes (exec (.illegalRsvd 1 1) (accepted 0 0 0 0x11)) 0 0x10104 = true := by decide
/-- M1. -/
theorem test_status_after_acceptance : publishes (exec (.wrCmd 1) State.reset) 0 0x10001 = true := by decide
/-- M9. -/
theorem test_command_dropped : publishes (exec (.wrCmd 4) (accepted 48 18 0 1)) 0 0x10009 = true := by decide
/-- M13: the code stays readable. -/
theorem test_w1c_keeps_the_code :
    publishes (exec (.wrStatus 4) { State.reset with err := true, errcode := 3, lastop := 2 }) 0 0x20300 = true := by decide
/-- M16. -/
theorem test_w1c_keeps_key_valid : publishes (exec (.wrStatus 0xFFFFFFFFFFFFFFFF) (keyed { State.reset with done := true, ovr := true }))
    0 0x10 = true := by decide
/-- Section 2.8, I2 and I3. -/
theorem test_irq : { State.reset with ctrl := 1, done := true }.irq = true ∧ { State.reset with ctrl := 1, err := true }.irq = false := by
  decide
/-- Section 2.9, T1 and T3, and example R203. -/
theorem test_read_id : nextIs (exec .rdId State.reset) (fun t => t.ack && t.rdata == 0x000001404D584531 && !t.rerr) = true := by decide
theorem test_ctrl_keeps_three_bits :
    nextIs (exec (.wrCtrl 0xFFFFFFFFFFFFFFFF) State.reset) (fun t => t.ctrlWord == 7) = true := by decide
theorem test_read_status :
    nextIs (exec .rdStatus (keyed { State.reset with done := true, lastop := 6 })) (fun t => t.rdata == 0x60012) = true := by decide
/-- Section 2.9, T13. -/
theorem test_wrong_width : nextIs (exec (.busError true 0x20 4) State.reset) (fun t => t.rerr && t.rdata == 0 && t.opa == 0) = true := by
  decide
/-- P5, the byte lanes of OPA after step 2. -/
theorem test_byte_lanes :
    let s := { State.reset with opa := 0x1122334455667788 }
    s.registerByte 0x20 = 0x88 ∧ s.registerByte 0x21 = 0x77 ∧ s.registerByte 0x27 = 0x11 := by decide
/-- The step runs a presented transaction and a placed command word. -/
theorem test_step_runs_fetch_word :
    nextIs (step (State.reset.withFetchWord 8 0x20)) (fun t => t.ack && t.rdata == 0) = true ∧
      publishes (step (State.reset.withFetchWord 64 2)) 0 0x20204 = true := by decide
/-- 30_encoding.md R88. -/
theorem test_expand_modinv :
    (Pseudo.modinv (.lit 7) (.lit 3120)).expand "w" =
      [.wr .opa (.lit 7), .wr .opm (.lit 3120), .cmd .modinv, .label "w", .rd .status, .busy "w", .rd .res] := by decide
/-- 30_encoding.md R88: each `WAIT` has a label of its own, which the written label `w` is not. -/
theorem test_expand_local_labels :
    expandProgram [.pseudo .wait, .base (.label "w"), .pseudo .wait] =
      [.label (.wait 0), .rd .status, .busy (.wait 0), .label (.named "w"), .label (.wait 2), .rd .status, .busy (.wait 2)] := by
  decide
/-- 30_encoding.md R87: every statement's transaction is legal, and `CMD MNEM` requests its command. -/
theorem driver_cmd_requests (d : Driver) (m : Mnemonic) :
    (d.transactionOf (.cmd m)).map decodeTransaction = some (.wrCmd m.opcode) ∧ decodeOp m.opcode ≠ .illegal := by
  cases m <;> exact ⟨rfl, by decide⟩

/-! ### Witnesses: states and operands that meet the statements' hypotheses -/

theorem keyPair_61_53 : KeyPair 61 53 3233 3120 7 1783 where
  factors := by decide
  modulus := by decide
  totient := by decide
  exponent := by decide
  least := by
    intro c h3 h7 hodd
    obtain rfl | rfl : c = 3 ∨ c = 5 := by omega
    all_goals decide
  inverse := by decide

theorem keyInv_keyed (s : State) : (keyed s).KeyInv := fun _ => ⟨61, 53, keyPair_61_53⟩

theorem engineInv_accepted (a b m w : Word) : (accepted a b m w).EngineInv := fun _ => ⟨Engine.reset, 0, rfl⟩

theorem engineInv_keyed_accepted (a b m w : Word) : (keyed (accepted a b m w)).EngineInv := fun _ => ⟨Engine.reset, 0, rfl⟩

theorem inv_accepted_gcd : (accepted 48 18 0 1).Inv where
  status := by constructor <;> decide
  key := by intro h; exact absurd h (by decide)
  engine := engineInv_accepted 48 18 0 1

theorem inv_accepted_keygen : (accepted 61 53 0 5).Inv where
  status := by constructor <;> decide
  key := by intro h; exact absurd h (by decide)
  engine := engineInv_accepted 61 53 0 5

theorem inv_keyed_encrypt : (keyed (accepted 65 0 0 6)).Inv where
  status := by constructor <;> decide
  key := keyInv_keyed _
  engine := engineInv_keyed_accepted 65 0 0 6

theorem witness_DecodeUndoesEncode : (Instr.illegalRsvd 1 5).wellFormed = true ∧ (Instr.rdReserved 0x78).wellFormed = true ∧
    (Instr.busError true 0x20 9).wellFormed = true ∧ (Instr.illegalOp8F 8).wellFormed = true := by decide

theorem witness_EncodeUndoesDecode : ∃ t : Transaction, t.we = true ∧ t.size = 8 ∧ t.addr.toNat % 8 = 0 :=
  ⟨⟨true, 0x78, 8, 1⟩, by decide⟩

theorem witness_MalformedTransactionsHaveNoEffect :
    (∃ t : Transaction, t.size ≠ 8) ∧ (∃ t : Transaction, t.addr.toNat % 8 ≠ 0) ∧
      ∃ t : Transaction, t.size = 8 ∧ t.addr.toNat % 8 = 0 :=
  ⟨⟨⟨true, 0x18, 4, 4⟩, by decide⟩, ⟨⟨false, 0x7F, 8, 0⟩, by decide⟩, ⟨⟨false, 0x78, 8, 0⟩, by decide⟩⟩

/-- Meets StatusWriteClearsPendingBits, HostGoesFirstInACycle, EngineStepPublishesOneOutcome, BusyWindowEnds and
InterruptFallsAtAcceptanceAndRisesAtCompletion. -/
theorem witness_last_step_of_a_running_command :
    ∃ s : State, s.Inv ∧ s.rst = .running ∧ s.busy = true ∧ s.stepsLeft ≤ 1 ∧ s.ovr = false ∧
      (∀ e ∈ [Event.idleEdge], e ≠ .resetAssert ∧ e ≠ .resetRelease) ∧
      s.stepsLeft ≤ ([Event.idleEdge].filter fun e => e == .engineStep || e == .idleEdge).length :=
  ⟨accepted 48 18 0 1, inv_accepted_gcd, by decide⟩

theorem witness_ReadsHaveNoSideEffects :
    (∃ (t : Transaction) (u : State), t.we = false ∧ exec (decodeTransaction t) State.reset = .next u) ∧
      (∃ u, exec (.wrStatus 2) State.reset = .next u) ∧ (∃ u, exec (.wrReserved 0x78 1) State.reset = .next u) ∧
      State.reset.busy = false :=
  ⟨⟨⟨false, 0x10, 8, 0⟩, _, rfl, rfl⟩, ⟨_, rfl⟩, ⟨_, rfl⟩, rfl⟩

/-- Meets CommandWhileBusyIsDropped. -/
theorem witness_busy : (accepted 48 18 0 1).busy = true := by decide

/-- Meets CommandWhileIdleIsAccepted, IdleEngineStepChangesNothing, CommandRightAfterAcceptanceIsDropped and
PortAnswersEveryTransactionAtOnce. -/
theorem witness_idle : State.reset.busy = false ∧ State.reset.rst = .running := by decide

theorem witness_RegisterBytesAreLittleEndian : (0x78 : Nat) % 8 = 0 ∧ (0x78 : Nat) < 128 ∧ (7 : Nat) < 8 := by decide

theorem witness_ContinuingStepIsInvisible :
    Command.gcd ≠ .illegal ∧ ({ accepted 48 18 0 1 with stepsLeft := 2 } : State).Continuing .gcd :=
  ⟨by decide, ⟨by decide, by decide, by decide⟩⟩

theorem witness_GcdPublishesTheGcd : (accepted 48 18 0 1).Completing .gcd :=
  ⟨by decide, by decide, by decide, engineInv_accepted 48 18 0 1⟩

/-- The three clauses of ModinvPublishesTheInverse, the third in both its cases. -/
theorem witness_ModinvPublishesTheInverse :
    ((accepted 5 0 0 2).Completing .modinv ∧ (accepted 5 0 0 2).lm = 0) ∧
      ((accepted 2 0 4 2).Completing .modinv ∧ 1 < (accepted 2 0 4 2).lm.toNat ∧
        Nat.gcd ((accepted 2 0 4 2).la.toNat % (accepted 2 0 4 2).lm.toNat) (accepted 2 0 4 2).lm.toNat ≠ 1) ∧
      ((accepted 0 0 1 2).Completing .modinv ∧ (accepted 0 0 1 2).lm = 1) ∧
      ((accepted 3 0 2 2).Completing .modinv ∧ 1 < (accepted 3 0 2 2).lm.toNat ∧
        Nat.gcd ((accepted 3 0 2 2).la.toNat % (accepted 3 0 2 2).lm.toNat) (accepted 3 0 2 2).lm.toNat = 1) :=
  ⟨⟨⟨by decide, by decide, by decide, engineInv_accepted _ _ _ _⟩, by decide⟩,
    ⟨⟨by decide, by decide, by decide, engineInv_accepted _ _ _ _⟩, by decide, by decide⟩,
    ⟨⟨by decide, by decide, by decide, engineInv_accepted _ _ _ _⟩, by decide⟩,
    ⟨⟨by decide, by decide, by decide, engineInv_accepted _ _ _ _⟩, by decide, by decide⟩⟩

theorem witness_ModmulPublishesTheProduct :
    ((accepted 5 7 0 3).Completing .modmul ∧ (accepted 5 7 0 3).lm = 0) ∧
      ((accepted 5 7 1 3).Completing .modmul ∧ (accepted 5 7 1 3).lm ≠ 0) :=
  ⟨⟨⟨by decide, by decide, by decide, engineInv_accepted _ _ _ _⟩, by decide⟩,
    ⟨⟨by decide, by decide, by decide, engineInv_accepted _ _ _ _⟩, by decide⟩⟩

theorem witness_ModexpPublishesThePower :
    ((accepted 5 0 0 4).Completing .modexp ∧ (accepted 5 0 0 4).lm = 0) ∧
      ((accepted 3 0 1 4).Completing .modexp ∧ (accepted 3 0 1 4).lm ≠ 0) :=
  ⟨⟨⟨by decide, by decide, by decide, engineInv_accepted _ _ _ _⟩, by decide⟩,
    ⟨⟨by decide, by decide, by decide, engineInv_accepted _ _ _ _⟩, by decide⟩⟩

/-- The smallest pair and the largest product that pass. -/
theorem witness_KeygenDerivesTheKeyOfItsFactors :
    ((accepted 2 3 0 5).Completing .keygen ∧ (accepted 2 3 0 5).keyValid = false ∧ 2 ≤ (accepted 2 3 0 5).la.toNat ∧
        2 ≤ (accepted 2 3 0 5).lb.toNat ∧ (accepted 2 3 0 5).la ≠ (accepted 2 3 0 5).lb ∧
        (accepted 2 3 0 5).la.toNat * (accepted 2 3 0 5).lb.toNat < 2 ^ 64) ∧
      (accepted 4294967295 4294967297 0 5).la.toNat * (accepted 4294967295 4294967297 0 5).lb.toNat < 2 ^ 64 :=
  ⟨⟨⟨by decide, by decide, by decide, engineInv_accepted _ _ _ _⟩, by decide⟩, by decide⟩

theorem witness_KeygenChecksInOrder :
    ((keyed (accepted 2 2 0 5)).Completing .keygen ∧ (keyed (accepted 2 2 0 5)).keyValid = true) ∧
      ((accepted 1 7 0 5).Completing .keygen ∧ (accepted 1 7 0 5).keyValid = false ∧ (accepted 1 7 0 5).la.toNat < 2) ∧
      ((accepted 0x100000000 0x100000001 0 5).Completing .keygen ∧
        2 ^ 64 ≤ (accepted 0x100000000 0x100000001 0 5).la.toNat * (accepted 0x100000000 0x100000001 0 5).lb.toNat) :=
  ⟨⟨⟨by decide, by decide, by decide, engineInv_keyed_accepted _ _ _ _⟩, by decide⟩,
    ⟨⟨by decide, by decide, by decide, engineInv_accepted _ _ _ _⟩, by decide⟩,
    ⟨⟨by decide, by decide, by decide, engineInv_accepted _ _ _ _⟩, by decide⟩⟩

theorem witness_CipherCommandsApplyTheKey :
    ((accepted 65 0 0 6).Completing .encrypt ∧ (accepted 65 0 0 6).keyValid = false) ∧
      ((accepted 65 0 0 7).Completing .decrypt ∧ (accepted 65 0 0 7).keyValid = false) ∧
      ((keyed (accepted 65 0 0 6)).Completing .encrypt ∧ (keyed (accepted 65 0 0 6)).KeyInv ∧
        (keyed (accepted 65 0 0 6)).keyValid = true) ∧
      ((keyed (accepted 65 0 0 7)).Completing .decrypt ∧ (keyed (accepted 65 0 0 7)).KeyInv ∧
        (keyed (accepted 65 0 0 7)).keyValid = true) :=
  ⟨⟨⟨by decide, by decide, by decide, engineInv_accepted _ _ _ _⟩, by decide⟩,
    ⟨⟨by decide, by decide, by decide, engineInv_accepted _ _ _ _⟩, by decide⟩,
    ⟨⟨by decide, by decide, by decide, engineInv_keyed_accepted _ _ _ _⟩, keyInv_keyed _, by decide⟩,
    ⟨⟨by decide, by decide, by decide, engineInv_keyed_accepted _ _ _ _⟩, keyInv_keyed _, by decide⟩⟩

theorem witness_IllegalWordsRaiseIllegalCmd :
    ((accepted 0 0 0 0x15).busy = true ∧ (accepted 0 0 0 0x15).lop = .illegal ∧ (accepted 0 0 0 0x15).EngineInv) ∧
      (State.reset.busy = false ∧ ((8 : Word) = 0 ∨ 8 ≤ (8 : Word).toNat)) :=
  ⟨⟨by decide, by decide, engineInv_accepted _ _ _ _⟩, by decide⟩

/-- The operands of the key K61. -/
def operands61 (a : Word) : Operands :=
  { a := a, b := 0, m := 0, keyValid := true, keyN := 3233, keyE := 7, keyD := 1783 }

/-- The clauses of GcdLawsHold and ModexpLawsHold at their boundaries. -/
theorem witness_laws :
    ({ operands61 9 with b := 0 } : Operands).b = 0 ∧ ({ operands61 9 with b := 1 } : Operands).b ≠ 0 ∧
      1 < ({ operands61 9 with m := 2 } : Operands).m.toNat ∧ ({ operands61 9 with m := 1 } : Operands).m = 1 := by decide

theorem witness_BarrettReducesExactly : (1 : Word) ≠ 0 ∧ (0 : DWord).toNat < (1 : Word).toNat * (1 : Word).toNat := by decide

theorem witness_EncryptReducesItsMessage : (operands61 3298).keyValid = true ∧ (operands61 3298).keyN ≠ 0 := by decide

/-- Meets EncryptFixesTheEnds and RsaRoundTrip, at the largest message. -/
theorem witness_RsaRoundTrip :
    (operands61 0).keyValid = true ∧ (61 : Nat).Prime ∧ (53 : Nat).Prime ∧
      KeyPair 61 53 (operands61 0).keyN.toNat 3120 (operands61 0).keyE.toNat (operands61 0).keyD.toNat ∧
      (3232 : Word).toNat < (operands61 0).keyN.toNat :=
  ⟨by decide, by norm_num, by norm_num, keyPair_61_53, by decide⟩

theorem witness_StepRunsTheDecodedTransaction :
    ∃ (s : State) (t : Transaction), s.rst = .running ∧ s.events = .transaction t :: [] :=
  ⟨{ State.reset with events := [.transaction ⟨true, 0x20, 8, 1⟩] }, _, rfl, rfl⟩

theorem witness_StepRunsTheLatchedCommand :
    (accepted 48 18 0 1).rst = .running ∧ (accepted 48 18 0 1).events = [] ∧
      ({ accepted 48 18 0 1 with events := [.engineStep] } : State).events = .engineStep :: [] ∧
      ({ accepted 48 18 0 1 with events := [.idleEdge] } : State).events = .idleEdge :: [] := by decide

theorem witness_StepRunsTheFetchWord : decodeTableWord 64 7 = some .decrypt ∧ decodeTableWord 8 0xF8 = some (.wrReserved 0x78 0) := by
  decide

theorem witness_ResetSetsEveryRegister : ({ accepted 48 18 0 1 with events := [.resetAssert] } : State).nextEvent = .resetAssert := by
  decide

theorem witness_ResetIgnoresTransactions : State.reset.enterReset.StatusInv ∧ State.reset.enterReset.rst = .held :=
  ⟨by constructor <;> decide, rfl⟩

theorem witness_OnlyResetEndsTheUnresetState : ({ State.reset with rst := .beforeFirst } : State).rst = .beforeFirst := by decide

/-- Meets StepKeepsTheStatusRules, StepKeepsTheStateSound and SoundStatesStep with a step that completes a command. -/
theorem witness_sound_step : ∃ s t : State, s.Inv ∧ step s = .next t ∧ t.done = true ∧ t.res = 6 := by
  obtain ⟨t, ht, hp⟩ := nextIs_elim (a := step (accepted 48 18 0 1)) (p := fun t => t.done && t.res == 6) (by decide)
  exact ⟨_, t, inv_accepted_gcd, ht, by simpa using hp⟩

/-- The two clauses of KeyIsWrittenOncePerReset. -/
theorem witness_KeyIsWrittenOncePerReset :
    (∃ s t : State, s.Inv ∧ step s = .next t ∧ s.nextEvent ≠ .resetAssert ∧ s.keyValid = true) ∧
      ∃ s t : State, s.Inv ∧ step s = .next t ∧ s.nextEvent ≠ .resetAssert ∧ s.keyValid = false ∧ t.keyValid = true := by
  constructor
  · obtain ⟨t, ht, -⟩ := nextIs_elim (a := step (keyed (accepted 65 0 0 6))) (p := fun _ => true) (by decide)
    exact ⟨_, t, inv_keyed_encrypt, ht, by decide, by decide⟩
  · obtain ⟨t, ht, hp⟩ := nextIs_elim (a := step (accepted 61 53 0 5)) (p := fun t => t.keyValid) (by decide +kernel)
    exact ⟨_, t, inv_accepted_keygen, ht, by decide, by decide, hp⟩

theorem witness_OnlyTheHostChangesControl : ∃ s t : State, step s = .next t ∧ t.ctrl ≠ s.ctrl :=
  ⟨{ State.reset with events := [.transaction ⟨true, 0x08, 8, 1⟩] }, _, rfl, by decide⟩

theorem witness_OnlyASuccessfulCommandChangesRes : ∃ s t : State, s.Inv ∧ step s = .next t ∧ t.res ≠ s.res := by
  obtain ⟨t, ht, hp⟩ := nextIs_elim (a := step (accepted 48 18 0 1)) (p := fun t => t.res == 6) (by decide)
  refine ⟨_, t, inv_accepted_gcd, ht, ?_⟩
  have h6 : t.res = 6 := by simpa using hp
  rw [h6]; decide

/-- The clauses of OverrunIsSetAndClearedByTheHost. -/
theorem witness_OverrunIsSetAndClearedByTheHost :
    (∃ s t : State, step s = .next t ∧ s.ovr = false ∧ t.ovr = true ∧ s.rst = .running ∧ s.busy = true) ∧
      ∃ s t : State, step s = .next t ∧ s.ovr = true ∧ t.ovr = false :=
  ⟨⟨{ accepted 48 18 0 1 with events := [.transaction ⟨true, 0x18, 8, 4⟩] }, _, rfl, by decide⟩,
    ⟨{ State.reset with ovr := true, events := [.transaction ⟨true, 0x10, 8, 8⟩] }, _, rfl, by decide⟩⟩

theorem witness_InterruptFollowsPendingAndEnables : ∃ s t : State, step s = .next t ∧ s.irq = true ∧ t.irq = false :=
  ⟨{ State.reset with ctrl := 1, done := true, events := [.transaction ⟨true, 0x10, 8, 2⟩] }, _, rfl, by decide⟩

theorem witness_ReservedAndReadOnlyOffsetsIgnoreWrites :
    (0x78 : BitVec 7).toNat ∈ [0x60, 0x68, 0x70, 0x78] ∧ (0x58 : BitVec 7).toNat ∈ [0x00, 0x38, 0x40, 0x48, 0x50, 0x58] := by decide

/-- Meets the key clauses of KeygenSearchStopsBy59 and EncryptFixesTheEnds. -/
theorem witness_KeygenSearchStopsBy59 :
    ∃ o n phi e d, outcome .keygen o = some (.okKey n phi e d) :=
  ⟨{ operands61 61 with b := 53, keyValid := false }, 3233, 3120, 7, 1783, by decide +kernel⟩

theorem witness_InstancesAreIndependent :
    ∃ y y' : System, y.happen 1 (.transaction ⟨true, 0x20, 8, 1⟩) = .next y' ∧
      y.cores[1]? = some { State.reset with inst := 1 } ∧ y.Numbered := by
  refine ⟨⟨[State.reset, { State.reset with inst := 1 }]⟩, _, rfl, rfl, ?_⟩
  intro i s h
  match i with
  | 0 => cases h; rfl
  | 1 => cases h; rfl
  | _ + 2 => exact absurd h (by simp)

theorem witness_SystemAddressesReachTheirOffset : offsetOf 0 (Config.baseAddr 0 + 0x7F) = some 0x7F := by
  simp [offsetOf, Config.registerSpaceBytes]

end Sys2Proof.Tests
end

/-! PROOFS. What an engine step and an event make of the state, once each; then the statements that follow from that alone: reset,
the port, CTRL, OVR and the writes beside a running command. -/

namespace Sys2Proof.Machine

variable {s t : State}

/-! ### The effect of a host transaction -/

/-- What the instruction of a host transaction makes of the registers, before the response. -/
def hostEffect (i : Instr) (s : State) : State :=
  match i with
  | .wrCtrl v => { s with ctrl := v.extractLsb' 0 3 }
  | .wrStatus v => s.w1c v
  | .wrCmd w => s.requestCommand w
  | .wrOpa v => { s with opa := v }
  | .wrOpb v => { s with opb := v }
  | .wrOpm v => { s with opm := v }
  | _ => s

/-- A host transaction has its instruction's effect and is answered; an error response carries no data. -/
theorem exec_decodeTransaction_eq (tr : Transaction) (s : State) :
    ∃ v b, (b = true → v = 0) ∧
      exec (decodeTransaction tr) s = .next ((hostEffect (decodeTransaction tr) s).respond v b) := by
  unfold decodeTransaction
  split
  · exact ⟨0, true, fun _ => rfl, rfl⟩
  · split
    · unfold decodeWrite
      split <;> exact ⟨0, false, nofun, rfl⟩
    · unfold decodeRead
      split <;> exact ⟨_, false, nofun, rfl⟩

/-- The key registers and KEY_VALID unchanged. -/
structure KeysKept (s t : State) : Prop where
  keyValid : t.keyValid = s.keyValid
  keyN : t.keyN = s.keyN
  keyPhi : t.keyPhi = s.keyPhi
  keyE : t.keyE = s.keyE
  keyD : t.keyD = s.keyD

theorem keysKept_refl (s : State) : KeysKept s s := ⟨rfl, rfl, rfl, rfl, rfl⟩

/-- What a host transaction leaves unchanged whatever it does. -/
structure HostFrame (s t : State) : Prop extends KeysKept s t where
  rst : t.rst = s.rst
  res : t.res = s.res

theorem requestCommand_frame (w : Word) (s : State) : HostFrame s (s.requestCommand w) := by
  cases hb : s.busy with
  | true => rw [requestCommand_busy hb]; exact ⟨⟨rfl, rfl, rfl, rfl, rfl⟩, rfl, rfl⟩
  | false => rw [requestCommand_idle hb]; exact ⟨⟨rfl, rfl, rfl, rfl, rfl⟩, rfl, rfl⟩

theorem hostEffect_frame (i : Instr) (s : State) : HostFrame s (hostEffect i s) := by
  cases i with
  | wrCmd w => exact requestCommand_frame w s
  | _ => exact ⟨⟨rfl, rfl, rfl, rfl, rfl⟩, rfl, rfl⟩

/-! ### The effect of an engine step -/

/-- What the engine step of an edge makes of the state (40_command_model.md R104, R105). -/
def State.engineNext (s : State) : State :=
  if s.busy then
    if s.lop ≠ .illegal ∧ 1 < s.stepsLeft then s.continueStep (microOf s.lop) else s.completeStep (microOf s.lop)
  else s

/-- The engine always makes its step. -/
theorem exec_engineInstr_eq (s : State) : exec s.engineInstr s = .next s.engineNext := by
  by_cases hl : s.lop = .illegal
  · rw [exec_engineInstr_illegal s s hl]
    cases hb : s.busy <;> simp [engineFirstStep, State.engineNext, hb, hl, microOf]
  · rw [exec_engineInstr s s hl]
    cases hb : s.busy with
    | false => simp [engineStep_idle, State.engineNext, hb]
    | true =>
      by_cases h1 : 1 < s.stepsLeft
      · simp [engineStep_continue, State.engineNext, hb, hl, h1]
      · simp [engineStep_complete, State.engineNext, hb, h1, Nat.not_lt.mp h1]

/-- All an engine step can do. -/
inductive EngineEffect (s : State) : State → Prop where
  | idle (hb : s.busy = false) : EngineEffect s s
  | continued (hb : s.busy = true) (hl : s.lop ≠ .illegal) (h1 : 1 < s.stepsLeft) :
      EngineEffect s (s.continueStep (microOf s.lop))
  /-- The fuel ends before the microsequence does. -/
  | unfinished (hb : s.busy = true) :
      EngineEffect s { s with eng := microFinish (microOf s.lop s.operands) s.eng }
  | published (hb : s.busy = true) (o : CmdOutcome)
      (ho : (microFinish (microOf s.lop s.operands) s.eng).pending = some o) :
      EngineEffect s
        ({ s with
            eng := (microFinish (microOf s.lop s.operands) s.eng).retire s.workingDraw
            stepsLeft := 0 }.publish o)

theorem engineNext_effect (s : State) : EngineEffect s s.engineNext := by
  cases hb : s.busy with
  | false => simpa [State.engineNext, hb] using EngineEffect.idle hb
  | true =>
    by_cases hc : s.lop ≠ .illegal ∧ 1 < s.stepsLeft
    · rw [State.engineNext, if_pos hb, if_pos hc]
      exact .continued hb hc.1 hc.2
    · rw [State.engineNext, if_pos hb, if_neg hc]
      obtain ⟨o, ho, he⟩ | ⟨-, he⟩ := completeStep_cases (microOf s.lop) s
      · rw [he]; exact .published hb o ho
      · rw [he]; exact .unfinished hb

/-- What an engine step leaves unchanged whatever it does. -/
structure EngineFrame (s t : State) : Prop where
  ctrl : t.ctrl = s.ctrl
  ovr : t.ovr = s.ovr
  ack : t.ack = s.ack
  rdata : t.rdata = s.rdata
  rerr : t.rerr = s.rerr

theorem engineEffect_frame (h : EngineEffect s t) : EngineFrame s t := by
  cases h <;> constructor <;> simp

theorem engineNext_frame (s : State) : EngineFrame s s.engineNext := engineEffect_frame (engineNext_effect s)

/-! ### The effect of an event -/

/-- All an event can do. -/
inductive EventEffect (s : State) : Event → State → Prop where
  | transaction (hr : s.rst = .running) (tr : Transaction) (v : Word) (b : Bool) (hb : b = true → v = 0) :
      EventEffect s (.transaction tr) ((hostEffect (decodeTransaction tr) s).respond v b)
  | engineStep (hr : s.rst = .running) : EventEffect s .engineStep s.engineNext
  | idleEdge (hr : s.rst = .running) : EventEffect s .idleEdge s.noResponse.engineNext
  | resetAssert : EventEffect s .resetAssert s.enterReset
  | ignored (e : Event) (he : e ≠ .resetAssert) (hr : s.rst ≠ .running ∨ e = .resetRelease) : EventEffect s e s
  | release (hr : s.rst = .held) : EventEffect s .resetRelease s.releaseReset
  | leave (e : Event) (he : e ≠ .resetAssert) (hr : s.rst = .released) : EventEffect s e s.leaveReset

/-- Reset is entered from every phase. -/
theorem handleEvent_resetAssert (s : State) : handleEvent .resetAssert s = .next s.enterReset := by
  unfold handleEvent
  split <;> rfl

theorem runningEvent_effect {e : Event} (hr : s.rst = .running) (h : runningEvent e s = .next t) : EventEffect s e t := by
  cases e with
  | transaction tr =>
    obtain ⟨v, b, hb, hx⟩ := exec_decodeTransaction_eq tr s
    obtain rfl : _ = t := by simpa [runningEvent, hx] using h
    exact .transaction hr tr v b hb
  | engineStep =>
    obtain rfl : _ = t := by simpa [runningEvent, exec_engineInstr_eq] using h
    exact .engineStep hr
  | idleEdge =>
    obtain rfl : _ = t := by simpa [runningEvent, exec_engineInstr_eq] using h
    exact .idleEdge hr
  | resetAssert => cases h; exact .resetAssert
  | resetRelease => cases h; exact .ignored _ nofun (.inr rfl)

theorem heldEvent_effect (e : Event) (hr : s.rst = .held) : EventEffect s e (heldEvent e s) := by
  cases e with
  | resetAssert => exact .resetAssert
  | resetRelease => exact .release hr
  | _ => exact .ignored _ nofun (.inl (by simp [hr]))

theorem releasedEvent_effect (e : Event) (hr : s.rst = .released) : EventEffect s e (releasedEvent e s) := by
  cases e with
  | resetAssert => exact .resetAssert
  | transaction tr => exact .leave _ nofun hr
  | idleEdge => exact .leave _ nofun hr
  | _ => exact .ignored _ nofun (.inl (by simp [hr]))

theorem beforeFirstEvent_effect {e : Event} (h : beforeFirstEvent e s = .next t) : EventEffect s e t := by
  cases e with
  | resetAssert => cases h; exact .resetAssert
  | _ => exact absurd h nofun

theorem handleEvent_effect {e : Event} (h : handleEvent e s = .next t) : EventEffect s e t := by
  unfold handleEvent at h
  split at h
  case h_1 => exact beforeFirstEvent_effect h
  case h_2 hr => cases h; exact heldEvent_effect e hr
  case h_3 hr => cases h; exact releasedEvent_effect e hr
  case h_4 hr => exact runningEvent_effect hr h

/-- All a step can do. -/
theorem step_effect (h : step s = .next t) : EventEffect s.popEvent s.nextEvent t := handleEvent_effect h

theorem eq_enterReset_of_effect (h : EventEffect s .resetAssert t) : t = s.enterReset := by
  cases h with
  | resetAssert => rfl
  | ignored _ hn => exact absurd rfl hn
  | leave _ hn => exact absurd rfl hn

/-! ### Reset, the port and CTRL -/

/-- Settles O46: every phase of reset enters reset at its assertion, and the registers take their reset values. -/
theorem resetSetsEveryRegister : Obligations.ResetSetsEveryRegister := by
  intro s he
  refine ⟨s.popEvent.enterReset, by rw [step, he, handleEvent_resetAssert], ?_⟩
  have hid : s.popEvent.enterReset.readval 0 = 0x000001404D584531 := by
    show State.reset.readval 0 = _
    decide
  have hstatus : s.popEvent.enterReset.statusWord = 0 := by
    show State.reset.statusWord = 0
    decide
  have hirq : s.popEvent.enterReset.irq = false := by
    show State.reset.irq = false
    decide
  exact ⟨rfl, hstatus, rfl, rfl, rfl, rfl, rfl, rfl, rfl, rfl, hid, rfl, rfl, rfl, rfl, rfl, rfl, hirq, rfl, rfl, rfl⟩

/-- Settles O16: a transaction runs a host instruction, which always answers; an edge without a request takes the response
away, and no engine step drives one. -/
theorem portAnswersEveryTransactionAtOnce : Obligations.PortAnswersEveryTransactionAtOnce := by
  refine ⟨fun s tr hr => ?_, fun s hr => ?_⟩
  · obtain ⟨v, b, -, hx⟩ := exec_decodeTransaction_eq tr s
    exact ⟨_, by rw [handleEvent_running hr, runningEvent, hx], rfl⟩
  · have hf := engineNext_frame s.noResponse
    exact ⟨s.noResponse.engineNext, by rw [handleEvent_running hr, runningEvent, exec_engineInstr_eq],
      hf.ack, hf.rdata, hf.rerr⟩

theorem requestCommand_ctrl (w : Word) : (s.requestCommand w).ctrl = s.ctrl := by
  cases hb : s.busy <;> simp [requestCommand_idle, requestCommand_busy, hb]

/-- Of the host's instructions only a write of CTRL changes it. -/
theorem wrCtrl_of_hostEffect_ctrl_ne {i : Instr} (h : (hostEffect i s).ctrl ≠ s.ctrl) :
    ∃ v, i = .wrCtrl v ∧ (hostEffect i s).ctrl = v.extractLsb' 0 3 := by
  cases i with
  | wrCtrl v => exact ⟨v, rfl, rfl⟩
  | wrCmd w => exact absurd (requestCommand_ctrl w) h
  | _ => exact absurd rfl h

/-- Settles O54, by what each event can do. -/
theorem onlyTheHostChangesControl : Obligations.OnlyTheHostChangesControl := by
  intro s t h hne
  generalize he : s.nextEvent = e at *
  have heff : EventEffect s.popEvent e t := he ▸ step_effect h
  cases heff with
  | transaction hr tr v b hb =>
    obtain ⟨c, hi, hc⟩ := wrCtrl_of_hostEffect_ctrl_ne hne
    exact .inr ⟨tr, c, rfl, hi, hc⟩
  | engineStep => exact absurd (engineNext_frame s.popEvent).ctrl hne
  | idleEdge => exact absurd (engineNext_frame s.popEvent.noResponse).ctrl hne
  | resetAssert => exact .inl rfl
  | ignored => exact absurd rfl hne
  | release => exact absurd rfl hne
  | leave => exact absurd rfl hne

/-! ### The overrun flag -/

/-- Of the host's instructions only a CMD write in a BUSY window sets OVR. -/
theorem wrCmd_of_hostEffect_sets_ovr {i : Instr} (h0 : s.ovr = false) (h1 : (hostEffect i s).ovr = true) :
    s.busy = true ∧ ∃ w, i = .wrCmd w := by
  cases i with
  | wrCmd w =>
    cases hb : s.busy with
    | true => exact ⟨rfl, w, rfl⟩
    | false => simp [hostEffect, requestCommand_idle hb, h0] at h1
  | wrStatus v => simp [hostEffect, h0] at h1
  | _ => exact absurd (h0.symm.trans h1) nofun

/-- Of the host's instructions only a STATUS write with bit 3 set clears OVR. -/
theorem wrStatus_of_hostEffect_clears_ovr {i : Instr} (h1 : s.ovr = true) (h0 : (hostEffect i s).ovr = false) :
    ∃ v, i = .wrStatus v ∧ v.getLsbD 3 = true := by
  cases i with
  | wrStatus v => exact ⟨v, rfl, by simpa [hostEffect, h1] using h0⟩
  | wrCmd w => cases hb : s.busy <;> simp [hostEffect, requestCommand_idle, requestCommand_busy, hb, h1] at h0
  | _ => exact absurd (h1.symm.trans h0) nofun

/-- OVR is set and cleared by the host's instructions alone, but for reset. -/
theorem ovr_of_eventEffect {e : Event} (h : EventEffect s e t) :
    t.ovr = s.ovr ∨ (e = .resetAssert ∧ t.ovr = false) ∨
      ∃ tr, e = .transaction tr ∧ t.ovr = (hostEffect (decodeTransaction tr) s).ovr := by
  cases h with
  | transaction hr tr v b hb => exact .inr (.inr ⟨tr, rfl, rfl⟩)
  | engineStep => exact .inl (engineNext_frame s).ovr
  | idleEdge => exact .inl (engineNext_frame s.noResponse).ovr
  | resetAssert => exact .inr (.inl ⟨rfl, rfl⟩)
  | ignored => exact .inl rfl
  | release => exact .inl rfl
  | leave => exact .inl rfl

/-- Out of reset a transaction has the effect of its instruction. -/
theorem step_transaction {tr : Transaction} (hr : s.rst = .running) (he : s.nextEvent = .transaction tr)
    (h : step s = .next t) : ∃ v b, t = (hostEffect (decodeTransaction tr) s.popEvent).respond v b := by
  obtain ⟨v, b, -, hx⟩ := exec_decodeTransaction_eq tr s.popEvent
  rw [step, he, handleEvent_running (show s.popEvent.rst = .running from hr), runningEvent, hx] at h
  cases h
  exact ⟨v, b, rfl⟩

/-- Settles O56: the two transitions by what each event can do, the three converse clauses by the event's effect. -/
theorem overrunIsSetAndClearedByTheHost : Obligations.OverrunIsSetAndClearedByTheHost := by
  intro s t h
  refine ⟨fun h0 h1 => ?_, fun h1 h0 => ?_, fun tr w hr hb he hd => ?_, fun tr v hr he hd hv => ?_, fun he => ?_⟩
  · obtain hs | ⟨-, hz⟩ | ⟨tr, he, ht⟩ := ovr_of_eventEffect (step_effect h)
    · exact absurd (h1.symm.trans (hs.trans h0)) nofun
    · exact absurd (h1.symm.trans hz) nofun
    · obtain ⟨hb, w, hw⟩ := wrCmd_of_hostEffect_sets_ovr (s := s.popEvent) h0 (ht ▸ h1)
      exact ⟨hb, tr, w, he, hw⟩
  · obtain hs | ⟨he, -⟩ | ⟨tr, he, ht⟩ := ovr_of_eventEffect (step_effect h)
    · exact absurd (h1.symm.trans (hs.symm.trans h0)) nofun
    · exact .inl he
    · obtain ⟨v, hv, h3⟩ := wrStatus_of_hostEffect_clears_ovr (s := s.popEvent) h1 (ht ▸ h0)
      exact .inr ⟨tr, v, he, hv, h3⟩
  · obtain ⟨v, b, rfl⟩ := step_transaction hr he h
    have hb' : s.popEvent.busy = true := hb
    simp [hd, hostEffect, requestCommand_busy hb']
  · obtain ⟨u, b, rfl⟩ := step_transaction hr he h
    simp [hd, hostEffect, hv]
  · rw [step, he, handleEvent_resetAssert] at h
    cases h
    rfl

/-! ### Writes beside a running command -/

/-- A legal write that changes CTRL and the operand registers by the given functions, answered. -/
def State.hostWrite (fctrl : BitVec 3 → BitVec 3) (fa fb fm : Word → Word) (s : State) : State :=
  { s with ctrl := fctrl s.ctrl, opa := fa s.opa, opb := fb s.opb, opm := fm s.opm }.respond 0 false

section hostWrite

variable (fctrl : BitVec 3 → BitVec 3) (fa fb fm : Word → Word)

theorem hostWrite_publish (o : CmdOutcome) (s : State) :
    (s.hostWrite fctrl fa fb fm).publish o = (s.publish o).hostWrite fctrl fa fb fm := by
  cases o <;> rfl

theorem hostWrite_completeStep (f : Micro) (s : State) :
    (s.hostWrite fctrl fa fb fm).completeStep f = (s.completeStep f).hostWrite fctrl fa fb fm := by
  obtain ⟨o, ho, he⟩ | ⟨hn, he⟩ := completeStep_cases f s
  · rw [he, ← hostWrite_publish]
    exact completeStep_of_pending ho
  · obtain ⟨o, ho, -⟩ | ⟨-, he'⟩ := completeStep_cases f (s.hostWrite fctrl fa fb fm)
    · exact absurd (hn.symm.trans ho) nofun
    · rw [he, he']; rfl

/-- The engine step does not see such a write. -/
theorem hostWrite_engineNext (s : State) :
    (s.hostWrite fctrl fa fb fm).engineNext = s.engineNext.hostWrite fctrl fa fb fm := by
  have hb : (s.hostWrite fctrl fa fb fm).busy = s.busy := rfl
  have hl : (s.hostWrite fctrl fa fb fm).lop = s.lop := rfl
  have hn : (s.hostWrite fctrl fa fb fm).stepsLeft = s.stepsLeft := rfl
  rw [State.engineNext, State.engineNext, hb, hl, hn, hostWrite_completeStep]
  split_ifs <;> rfl

end hostWrite

/-- A write of an operand register or CTRL is one of these. -/
theorem exec_write_eq_hostWrite {v : Word} {i : Instr} (hi : i ∈ [Instr.wrOpa v, .wrOpb v, .wrOpm v, .wrCtrl v]) :
    ∃ fctrl fa fb fm, ∀ u : State, exec i u = .next (u.hostWrite fctrl fa fb fm) := by
  simp only [List.mem_cons, List.not_mem_nil, or_false] at hi
  obtain rfl | rfl | rfl | rfl := hi
  · exact ⟨id, fun _ => v, id, id, fun _ => rfl⟩
  · exact ⟨id, id, fun _ => v, id, fun _ => rfl⟩
  · exact ⟨id, id, id, fun _ => v, fun _ => rfl⟩
  · exact ⟨fun _ => v.extractLsb' 0 3, id, id, id, fun _ => rfl⟩

/-- Settles O41: the engine step reads neither CTRL nor the operand registers, and keeps them. -/
theorem operandWritesDoNotReachTheRunningCommand : Obligations.OperandWritesDoNotReachTheRunningCommand := by
  intro s v i hi
  obtain ⟨fctrl, fa, fb, fm, hw⟩ := exec_write_eq_hostWrite hi
  rw [hw, exec_engineInstr_eq]
  show exec (s.hostWrite fctrl fa fb fm).engineInstr (s.hostWrite fctrl fa fb fm) = exec i s.engineNext
  rw [exec_engineInstr_eq, hw, hostWrite_engineNext]

end Sys2Proof.Machine

/-! PROOFS. The rules on the flags, the codes, the port, the FSM and reset: each effect keeps them. -/

namespace Sys2Proof.Machine

variable {s t : State} {c : Command} {o : Operands} {e : Engine}

/-! ### Runs of a microsequence -/

/-- What every microstep keeps, a run keeps. -/
theorem microRun_keeps {f : Engine → Engine} {P : Engine → Prop} (hf : ∀ e, e.pending = none → P e → P (f e)) (n : Nat)
    (he : P e) : P (microRun f n e) := by
  induction n generalizing e with
  | zero => exact he
  | succ n ih =>
    cases hp : e.pending with
    | some r => rwa [microRun_done (by simp [hp])]
    | none => rw [microRun_succ_of_none hp]; exact ih (hf e hp he)

/-- What holds of every outcome that one microstep finds holds of the outcome a run finds. -/
theorem microRun_outcome {f : Engine → Engine} {P : Engine → Prop} {Q : CmdOutcome → Prop} {r : CmdOutcome}
    (hf : ∀ e, e.pending = none → P e → P (f e))
    (hq : ∀ e r, e.pending = none → P e → (f e).pending = some r → Q r) (n : Nat) (he : P e) (h0 : e.pending = none)
    (h : (microRun f n e).pending = some r) : Q r := by
  induction n generalizing e with
  | zero => exact absurd (h0.symm.trans h) nofun
  | succ n ih =>
    rw [microRun_succ_of_none h0] at h
    cases hp : (f e).pending with
    | none => exact ih (hf e h0 he) hp h
    | some r' =>
      rw [microRun_done (by simp [hp]), hp] at h
      cases h
      exact hq e r h0 he hp

/-! ### What the units leave alone -/

/-- A microstep of a unit touches neither the staging registers nor the FSM, and finds no outcome itself. -/
structure UnitFrame (e e' : Engine) : Prop where
  kn : e'.kn = e.kn
  kphi : e'.kphi = e.kphi
  ke : e'.ke = e.ke
  kfsm : e'.kfsm = e.kfsm
  pending : e'.pending = e.pending

theorem gcdStep_frame (a b : Word) (e : Engine) : UnitFrame e (gcdStep a b e).1 := by
  unfold gcdStep
  cases e.unit with
  | load => exact ⟨rfl, rfl, rfl, rfl, rfl⟩
  | loop => dsimp only; split <;> exact ⟨rfl, rfl, rfl, rfl, rfl⟩

theorem modinvNormalise_frame (m : Word) (e : Engine) : UnitFrame e (modinvNormalise m e) := by
  unfold modinvNormalise
  split <;> exact ⟨rfl, rfl, rfl, rfl, rfl⟩

theorem modinvStep_frame (a m : Word) (e : Engine) : UnitFrame e (modinvStep a m e).1 := by
  unfold modinvStep
  cases e.unit with
  | load => dsimp only; split <;> exact ⟨rfl, rfl, rfl, rfl, rfl⟩
  | loop =>
    dsimp only
    split_ifs
    · exact ⟨rfl, rfl, rfl, rfl, rfl⟩
    · exact ⟨rfl, rfl, rfl, rfl, rfl⟩
    · exact modinvNormalise_frame m e

theorem modexpMultiply_frame (m : Word) (e : Engine) : UnitFrame e (modexpMultiply m e) := by
  unfold modexpMultiply
  split <;> exact ⟨rfl, rfl, rfl, rfl, rfl⟩

theorem modexpStep_frame (b ex m : Word) (e : Engine) : UnitFrame e (modexpStep b ex m e).1 := by
  unfold modexpStep
  cases e.unit with
  | load => exact ⟨rfl, rfl, rfl, rfl, rfl⟩
  | loop =>
    dsimp only
    split
    · exact ⟨rfl, rfl, rfl, rfl, rfl⟩
    · obtain ⟨hkn, hkphi, hke, hkfsm, hpending⟩ := modexpMultiply_frame m e
      exact ⟨hkn, hkphi, hke, hkfsm, hpending⟩

/-! ### The commands other than KEYGEN -/

/-- The outcomes a command can have (40_command_model.md R103): KEYGEN has no result and an illegal command only an error; a
key is KEYGEN's alone, found while no key is valid, and the key of its two factors. -/
def OutcomeAllowed (c : Command) (o : Operands) : CmdOutcome → Prop
  | .okRes _ => c ≠ .keygen ∧ c ≠ .illegal
  | .okKey n phi e d =>
    c = .keygen ∧ o.keyValid = false ∧ KeyPair o.a.toNat o.b.toNat n.toNat phi.toNat e.toNat d.toNat
  | .err _ => True

/-- A microstep of a command other than KEYGEN leaves the FSM alone, and what it finds is an outcome of the command. -/
structure PlainMicrostep (c : Command) (o : Operands) (e e' : Engine) : Prop where
  kfsm : e'.kfsm = e.kfsm
  outcome : ∀ r, e.pending = none → e'.pending = some r → OutcomeAllowed c o r

theorem plainMicrostep_error (c : Command) (o : Operands) (e : Engine) (code : ErrCode) :
    PlainMicrostep c o e { e with pending := some (.err code) } where
  kfsm := rfl
  outcome r _ h := by cases h; trivial

theorem plainMicrostep_settle (hk : c ≠ .keygen) (hi : c ≠ .illegal) {r : Engine × UnitResult} (hf : UnitFrame e r.1) :
    PlainMicrostep c o e (settle r) := by
  obtain ⟨e', u⟩ := r
  cases u with
  | running => exact ⟨hf.kfsm, fun r h0 h => absurd (h.symm.trans (hf.pending.trans h0)) nofun⟩
  | ok v => exact ⟨hf.kfsm, fun r _ h => by cases h; exact ⟨hk, hi⟩⟩
  | fail => exact ⟨hf.kfsm, fun r _ h => by cases h; trivial⟩

theorem microModmul_plain (o : Operands) (e : Engine) : PlainMicrostep .modmul o e (microModmul o e) := by
  unfold microModmul
  split
  · exact plainMicrostep_error _ o e _
  · cases e.unit with
    | load => exact ⟨rfl, fun r h0 h => absurd (h.symm.trans h0) nofun⟩
    | loop => exact ⟨rfl, fun r _ h => by cases h; exact ⟨nofun, nofun⟩⟩

theorem cipherMicro_plain (hk : c ≠ .keygen) (hi : c ≠ .illegal) (ex : Word) (o : Operands) (e : Engine) :
    PlainMicrostep c o e (cipherMicro ex o e) := by
  unfold cipherMicro
  split
  · exact plainMicrostep_error c o e _
  · exact plainMicrostep_settle hk hi (modexpStep_frame o.a ex o.keyN e)

theorem microOf_plain (hc : c ≠ .keygen) (o : Operands) (e : Engine) : PlainMicrostep c o e (microOf c o e) := by
  cases c with
  | gcd => exact plainMicrostep_settle (c := .gcd) nofun nofun (gcdStep_frame o.a o.b e)
  | modinv =>
    show PlainMicrostep _ o e (microModinv o e)
    unfold microModinv
    split
    · exact plainMicrostep_error _ o e _
    · exact plainMicrostep_settle (c := .modinv) nofun nofun (modinvStep_frame o.a o.m e)
  | modmul => exact microModmul_plain o e
  | modexp =>
    show PlainMicrostep _ o e (microModexp o e)
    unfold microModexp
    split
    · exact plainMicrostep_error _ o e _
    · exact plainMicrostep_settle (c := .modexp) nofun nofun (modexpStep_frame o.a o.b o.m e)
  | keygen => exact absurd rfl hc
  | encrypt => exact cipherMicro_plain (c := .encrypt) nofun nofun o.keyE o e
  | decrypt => exact cipherMicro_plain (c := .decrypt) nofun nofun o.keyD o e
  | illegal => exact plainMicrostep_error _ o e _

/-- Only KEYGEN moves the FSM. -/
theorem microRun_kfsm (hc : c ≠ .keygen) (o : Operands) (n : Nat) (e : Engine) :
    (microRun (microOf c o) n e).kfsm = e.kfsm :=
  microRun_keeps (P := fun e' => e'.kfsm = e.kfsm) (fun e' _ h => (microOf_plain hc o e').kfsm.trans h) n rfl

/-! ### Acceptance -/

theorem setWidth_opField {w : Word} (h : rsvdField w = 0) : (opField w).setWidth 64 = w := by
  have h' : (rsvdField w).toNat = 0 := by simp [h]
  apply BitVec.eq_of_toNat_eq
  simp [rsvdField, opField, Nat.shiftRight_eq_div_pow] at *
  omega

/-- The opcode field of a legal command word names its command. -/
theorem decodeOp_opField {w : Word} (h : decodeOp w ≠ .illegal) : decodeOp w = decodeOp ((opField w).setWidth 64) := by
  by_cases hr : rsvdField w = 0
  · rw [setWidth_opField hr]
  · exact absurd (by rw [decodeOp, decodeCommandWord, if_pos hr]; rfl) h

theorem latencyOf_pos (c : Command) (o : Operands) (inst draw : Nat) : 1 ≤ latencyOf c o inst draw := by
  cases c <;> simp [latencyOf]

/-! ### The rules of `State.StatusInv` -/

theorem statusInv_popEvent (h : s.StatusInv) : s.popEvent.StatusInv :=
  { h with inReset := fun hr => by rw [State.popEvent, h.inReset hr] }

theorem statusInv_respond (h : s.StatusInv) (hr : s.rst = .running) {v : Word} {b : Bool} (hb : b = true → v = 0) :
    (s.respond v b).StatusInv :=
  { h with
    response := ⟨nofun, hb⟩
    inReset := fun hn => absurd hr hn }

theorem statusInv_noResponse (h : s.StatusInv) (hr : s.rst = .running) : s.noResponse.StatusInv :=
  { h with
    response := ⟨fun _ => ⟨rfl, rfl⟩, nofun⟩
    inReset := fun hn => absurd hr hn }

theorem statusInv_accept (h : s.StatusInv) (hr : s.rst = .running) (w : Word) : (s.accept w).StatusInv :=
  { h with
    notBoth := nofun
    busyClear := fun _ => ⟨rfl, rfl, rfl⟩
    doneCode := nofun
    errCode := nofun
    codeRange := Nat.zero_le _
    busySteps := fun _ => latencyOf_pos _ _ _ _
    illegalFirst := fun _ hl => by rw [State.accept_lop] at hl; rw [State.accept_stepsLeft, hl]; rfl
    latchedOp := decodeOp_opField
    fsmIdle := fun hn => if_neg fun hk => hn ⟨rfl, hk⟩
    inReset := fun hn => absurd hr hn }

theorem statusInv_w1c (h : s.StatusInv) (hr : s.rst = .running) (v : Word) : (s.w1c v).StatusInv :=
  { h with
    notBoth := fun ⟨hd, he⟩ => h.notBoth ⟨(Bool.and_eq_true_iff.mp hd).1, (Bool.and_eq_true_iff.mp he).1⟩
    busyClear := fun hb => by
      obtain ⟨hd, he, hc⟩ := h.busyClear hb
      exact ⟨by simp [hd], by simp [he], hc⟩
    doneCode := fun hd => h.doneCode (Bool.and_eq_true_iff.mp hd).1
    errCode := fun he => h.errCode (Bool.and_eq_true_iff.mp he).1
    inReset := fun hn => absurd hr hn }

/-- A change of CTRL, OVR and the operand registers alone. -/
theorem statusInv_hostFields (h : s.StatusInv) (hr : s.rst = .running) (ctrl : BitVec 3) (ovr : Bool) (a b m : Word) :
    ({ s with ctrl := ctrl, ovr := ovr, opa := a, opb := b, opm := m } : State).StatusInv :=
  { h with inReset := fun hn => absurd hr hn }

theorem statusInv_hostEffect (h : s.StatusInv) (hr : s.rst = .running) (i : Instr) : (hostEffect i s).StatusInv := by
  cases i with
  | wrCtrl v => exact statusInv_hostFields h hr _ _ _ _ _
  | wrStatus v => exact statusInv_w1c h hr v
  | wrCmd w =>
    show (s.requestCommand w).StatusInv
    cases hb : s.busy with
    | true => rw [requestCommand_busy hb]; exact statusInv_hostFields h hr _ _ _ _ _
    | false => rw [requestCommand_idle hb]; exact statusInv_accept h hr w
  | wrOpa v => exact statusInv_hostFields h hr _ _ _ _ _
  | wrOpb v => exact statusInv_hostFields h hr _ _ _ _ _
  | wrOpm v => exact statusInv_hostFields h hr _ _ _ _ _
  | _ => exact h

/-- The code of an error is one of 1 to 8 (60_exceptions.md R230). -/
theorem code_range (code : ErrCode) : code.code ≠ 0 ∧ code.code.toNat ≤ 8 := by
  cases code <;> decide

/-- Publication of any outcome in a BUSY window, the FSM back in `K_IDLE`. -/
theorem statusInv_publish (h : s.StatusInv) (hr : s.rst = .running) (hb : s.busy = true) (hk : e.kfsm = .kIdle)
    (r : CmdOutcome) : ({ s with eng := e, stepsLeft := 0 }.publish r : State).StatusInv := by
  obtain ⟨hd, he, hc⟩ := h.busyClear hb
  cases r with
  | okRes v =>
    exact { h with
      notBoth := fun ⟨_, he'⟩ => absurd (he.symm.trans he') nofun
      busyClear := nofun
      doneCode := fun _ => hc
      busySteps := nofun
      illegalFirst := nofun
      fsmIdle := fun _ => hk
      inReset := fun hn => absurd hr hn }
  | okKey n phi ex d =>
    exact { h with
      notBoth := fun ⟨_, he'⟩ => absurd (he.symm.trans he') nofun
      busyClear := nofun
      doneCode := fun _ => hc
      busySteps := nofun
      illegalFirst := nofun
      fsmIdle := fun _ => hk
      noKey := nofun
      inReset := fun hn => absurd hr hn }
  | err code =>
    exact { h with
      notBoth := fun ⟨hd', _⟩ => absurd (hd.symm.trans hd') nofun
      busyClear := nofun
      doneCode := fun hd' => absurd (hd.symm.trans hd') nofun
      errCode := fun _ => (code_range code).1
      codeRange := (code_range code).2
      busySteps := nofun
      illegalFirst := nofun
      fsmIdle := fun _ => hk
      inReset := fun hn => absurd hr hn }

/-- The FSM stays in `K_IDLE` while another command than KEYGEN runs. -/
theorem kfsm_microRun (h : s.StatusInv) (hb : s.busy = true) (n : Nat)
    (hn : ¬(s.busy = true ∧ s.lop = .keygen)) : (microRun (microOf s.lop s.operands) n s.eng).kfsm = .kIdle :=
  (microRun_kfsm (fun hk => hn ⟨hb, hk⟩) _ n _).trans (h.fsmIdle hn)

theorem statusInv_engineEffect (h : s.StatusInv) (hr : s.rst = .running) (he : EngineEffect s t) : t.StatusInv := by
  cases he with
  | idle hb => exact h
  | continued hb hl h1 =>
    exact { h with
      busySteps := fun _ => Nat.le_sub_of_add_le h1
      illegalFirst := fun _ hi => absurd hi hl
      fsmIdle := kfsm_microRun h hb _
      inReset := fun hn => absurd hr hn }
  | unfinished hb =>
    exact { h with
      fsmIdle := kfsm_microRun h hb microFuel
      inReset := fun hn => absurd hr hn }
  | published hb r ho => exact statusInv_publish h hr hb rfl r

theorem statusInv_enterReset (s : State) : s.enterReset.StatusInv := by
  constructor <;> simp [State.reset, Engine.reset, State.enterReset]

theorem statusInv_releaseReset (h : s.StatusInv) (hr : s.rst = .held) : s.releaseReset.StatusInv :=
  { h with
    wasReset := nofun
    inReset := fun _ => by rw [State.releaseReset, h.inReset (by simp [hr])] }

theorem statusInv_leaveReset (h : s.StatusInv) : s.leaveReset.StatusInv :=
  { h with
    wasReset := nofun
    inReset := fun hn => absurd rfl hn }

theorem statusInv_eventEffect {ev : Event} (h : s.StatusInv) (he : EventEffect s ev t) : t.StatusInv := by
  cases he with
  | transaction hr tr v b hb =>
    exact statusInv_respond (statusInv_hostEffect h hr _) ((hostEffect_frame _ s).rst.trans hr) hb
  | engineStep hr => exact statusInv_engineEffect h hr (engineNext_effect s)
  | idleEdge hr => exact statusInv_engineEffect (statusInv_noResponse h hr) hr (engineNext_effect _)
  | resetAssert => exact statusInv_enterReset s
  | ignored => exact h
  | release hr => exact statusInv_releaseReset h hr
  | leave => exact statusInv_leaveReset h

/-- Settles O50: each effect of an event keeps the rules. -/
theorem stepKeepsTheStatusRules : Obligations.StepKeepsTheStatusRules :=
  fun _ _ h hs => statusInv_eventEffect (statusInv_popEvent h) (step_effect hs)

end Sys2Proof.Machine

/-! PROOFS. KEYGEN: where `key_derivation_fsm` stands says what it has established, so that the key it commits is the key of its
two factors; then the soundness of the state, the key and the result register. -/

namespace Sys2Proof.Machine

variable {s t : State} {c : Command} {o : Operands} {e : Engine}

/-! ### What the FSM has established in each of its states -/

/-- `K_CHECK` has passed (42_key_derivation.md R161, R162). -/
structure FactorsChecked (o : Operands) : Prop where
  noKey : o.keyValid = false
  left : 2 ≤ o.a.toNat
  right : 2 ≤ o.b.toNat
  distinct : o.a ≠ o.b

/-- `K_MUL` has staged the modulus and the totient (R163, R164). -/
structure Staged (o : Operands) (n phi : Word) : Prop where
  checked : FactorsChecked o
  fits : o.a.toNat * o.b.toNat < 2 ^ 64
  modulus : n.toNat = o.a.toNat * o.b.toNat
  totient : phi.toNat = (o.a.toNat - 1) * (o.b.toNat - 1)

/-- The exponent search has come to the candidate `x` and turned all smaller ones down (R165, R166). -/
structure Candidate (phi x : Nat) : Prop where
  least : 3 ≤ x
  odd : x % 2 = 1
  limit : x ≤ Config.eSearchLimit
  rejected : ∀ y, 3 ≤ y → y < x → y % 2 = 1 → Nat.gcd y phi ≠ 1

/-- A state of `key_derivation_fsm` with what it has established on the operands `o` (R172). -/
inductive KeygenAt (o : Operands) (e : Engine) : Prop where
  | check (hk : e.kfsm = .kCheck)
  | mul (hk : e.kfsm = .kMul) (hf : FactorsChecked o)
  | einit (hk : e.kfsm = .kEinit) (hs : Staged o e.kn e.kphi)
  | egcd (hk : e.kfsm = .kEgcd) (hs : Staged o e.kn e.kphi) (hc : Candidate e.kphi.toNat e.ke.toNat)
      (hu : e.unit = .loop → Nat.gcd e.ga.toNat e.gb.toNat = Nat.gcd e.ke.toNat e.kphi.toNat)
  | etest (hk : e.kfsm = .kEtest) (hs : Staged o e.kn e.kphi) (hc : Candidate e.kphi.toNat e.ke.toNat)
      (hg : e.ga.toNat = Nat.gcd e.ke.toNat e.kphi.toNat)
  | dinv (hk : e.kfsm = .kDinv) (hs : Staged o e.kn e.kphi) (hc : Candidate e.kphi.toNat e.ke.toNat)
      (hg : Nat.gcd e.ke.toNat e.kphi.toNat = 1)
      (hu : e.unit = .loop → ∃ σ, BezoutInv (e.ke.toNat % e.kphi.toNat) e.kphi.toNat σ e)
  | commit (hk : e.kfsm = .kCommit) (hv : o.keyValid = false)
      (hp : KeyPair o.a.toNat o.b.toNat e.kn.toNat e.kphi.toNat e.ke.toNat e.kd.toNat)
  | failed (code : ErrCode) (hk : e.kfsm = .kErr code)

/-- Two distinct factors of at least 2 have a totient of at least 2 (R164). -/
theorem two_le_totient {n phi : Word} (h : Staged o n phi) : 2 ≤ phi.toNat := by
  obtain ⟨-, ha, hb, hne⟩ := h.checked
  have hne' : o.a.toNat ≠ o.b.toNat := fun h => hne (BitVec.eq_of_toNat_eq h)
  rw [h.totient]
  obtain ha3 | hb3 : 3 ≤ o.a.toNat ∨ 3 ≤ o.b.toNat := by omega
  · exact Nat.mul_le_mul (show 2 ≤ _ by omega) (show 1 ≤ _ by omega)
  · exact Nat.mul_le_mul (show 1 ≤ _ by omega) (show 2 ≤ _ by omega)

theorem candidate_three (phi : Nat) : Candidate phi 3 where
  least := le_rfl
  odd := rfl
  limit := by decide
  rejected := fun y h3 hlt => absurd h3 (Nat.not_le.mpr hlt)

/-- A candidate turned down, the next odd number is the candidate. -/
theorem candidate_next {phi x : Nat} (h : Candidate phi x) (hg : Nat.gcd x phi ≠ 1) (hl : x + 2 ≤ Config.eSearchLimit) :
    Candidate phi (x + 2) where
  least := Nat.le_add_right_of_le h.least
  odd := by rw [Nat.add_mod_right]; exact h.odd
  limit := hl
  rejected := fun y h3 hlt hodd => by
    have hx := h.odd
    obtain hy | rfl : y < x ∨ y = x := by omega
    · exact h.rejected y h3 hy hodd
    · exact hg

/-- A candidate coprime to the totient and its inverse complete the key. -/
theorem keyPair_of_candidate {n phi x d : Word} (hs : Staged o n phi) (hc : Candidate phi.toNat x.toNat)
    (hg : Nat.gcd x.toNat phi.toNat = 1) (hd : d.toNat < phi.toNat) (hi : (x.toNat * d.toNat) % phi.toNat = 1) :
    KeyPair o.a.toNat o.b.toNat n.toNat phi.toNat x.toNat d.toNat where
  factors := ⟨hs.checked.left, hs.checked.right, fun h => hs.checked.distinct (BitVec.eq_of_toNat_eq h), hs.fits⟩
  modulus := hs.modulus
  totient := hs.totient
  exponent := ⟨hc.least, hc.odd, hg⟩
  least := hc.rejected
  inverse := by
    refine ⟨Nat.pos_of_ne_zero fun h0 => ?_, hd, hi⟩
    rw [h0] at hi
    exact absurd hi (by simp)

/-! ### The microsteps of the FSM -/

theorem keygenCheck_at (o : Operands) (e : Engine) : KeygenAt o (keygenCheck o.a o.b o.keyValid e) := by
  unfold keygenCheck
  split_ifs with hv hf
  · exact .failed .keyLocked rfl
  · exact .failed .invalidFactor rfl
  · push Not at hf
    exact .mul rfl ⟨by simpa using hv, hf.1, hf.2.1, hf.2.2⟩

theorem keygenMul_at (hf : FactorsChecked o) (e : Engine) : KeygenAt o (keygenMul o.a o.b e) := by
  unfold keygenMul
  dsimp only
  split_ifs with hov
  · exact .failed .arithOverflow rfl
  · have hlt : o.a.toNat * o.b.toNat < 2 ^ 64 := Nat.not_le.mp hov
    have hphi : (o.a.toNat - 1) * (o.b.toNat - 1) < 2 ^ 64 :=
      lt_of_le_of_lt (Nat.mul_le_mul (Nat.sub_le _ _) (Nat.sub_le _ _)) hlt
    exact .einit rfl ⟨hf, hlt, by rw [BitVec.toNat_ofNat, Nat.mod_eq_of_lt hlt],
      by rw [BitVec.toNat_ofNat, Nat.mod_eq_of_lt hphi]⟩

theorem keygenEinit_at (hs : Staged o e.kn e.kphi) : KeygenAt o (keygenEinit e) :=
  .egcd rfl hs (candidate_three _) nofun

theorem gcdIter_gcd (e : Engine) :
    Nat.gcd (gcdIter e).ga.toNat (gcdIter e).gb.toNat = Nat.gcd e.ga.toNat e.gb.toNat := by
  have hgb : (gcdIter e).gb.toNat = e.ga.toNat % e.gb.toNat := by simp [gcdIter, divUnit]
  show Nat.gcd e.gb.toNat (gcdIter e).gb.toNat = _
  rw [hgb, Nat.gcd_comm, ← Nat.gcd_rec, Nat.gcd_comm]

theorem keygenEgcd_at (hk : e.kfsm = .kEgcd) (hs : Staged o e.kn e.kphi) (hc : Candidate e.kphi.toNat e.ke.toNat)
    (hu : e.unit = .loop → Nat.gcd e.ga.toNat e.gb.toNat = Nat.gcd e.ke.toNat e.kphi.toNat) :
    KeygenAt o (keygenEgcd e) := by
  unfold keygenEgcd gcdStep
  cases hl : e.unit with
  | load => exact .egcd hk hs hc fun _ => rfl
  | loop =>
    by_cases h0 : e.gb = 0
    · simp only [h0, if_true]
      refine .etest rfl hs hc ?_
      rw [← hu hl, h0]
      simp
    · simp only [h0, if_false]
      exact .egcd hk hs hc fun _ => (gcdIter_gcd e).trans (hu hl)

theorem keygenEtest_at (hs : Staged o e.kn e.kphi) (hc : Candidate e.kphi.toNat e.ke.toNat)
    (hg : e.ga.toNat = Nat.gcd e.ke.toNat e.kphi.toNat) : KeygenAt o (keygenEtest e) := by
  have hnext : (e.ke + 2).toNat = e.ke.toNat + 2 := by
    have hlim : e.ke.toNat ≤ 65537 := hc.limit
    simp
    omega
  unfold keygenEtest
  dsimp only
  split_ifs with h1 hlim
  · exact .dinv rfl hs hc (by rw [← hg, h1]; rfl) nofun
  · exact .failed .eNotFound rfl
  · have hne : Nat.gcd e.ke.toNat e.kphi.toNat ≠ 1 := fun h => h1 (BitVec.eq_of_toNat_eq (hg.trans h))
    refine .egcd rfl hs ?_ nofun
    rw [hnext] at hlim ⊢
    exact candidate_next hc hne (Nat.not_lt.mp hlim)

/-- At its loop's end `modinv_engine` has the inverse of the exponent (R167). -/
theorem keyPair_of_bezout {σ : Int} (hs : Staged o e.kn e.kphi) (hc : Candidate e.kphi.toNat e.ke.toNat)
    (hg : Nat.gcd e.ke.toNat e.kphi.toNat = 1) (hb : BezoutInv (e.ke.toNat % e.kphi.toNat) e.kphi.toNat σ e)
    (h0 : e.r0 = 1) :
    KeyPair o.a.toNat o.b.toNat e.kn.toNat e.kphi.toNat e.ke.toNat
      (BitVec.ofInt 64 (modinvNormalise e.kphi e).t0.toInt).toNat := by
  obtain ⟨hlt, hmul⟩ := modinvNormalise_spec (two_le_totient hs) hb (by rw [h0]; rfl)
  exact keyPair_of_candidate hs hc hg hlt (by rwa [Nat.mod_mul_mod] at hmul)

theorem keygenDinv_at (hk : e.kfsm = .kDinv) (hs : Staged o e.kn e.kphi) (hc : Candidate e.kphi.toNat e.ke.toNat)
    (hg : Nat.gcd e.ke.toNat e.kphi.toNat = 1)
    (hu : e.unit = .loop → ∃ σ, BezoutInv (e.ke.toNat % e.kphi.toNat) e.kphi.toNat σ e) : KeygenAt o (keygenDinv e) := by
  have h2 := two_le_totient hs
  unfold keygenDinv modinvStep
  cases hl : e.unit with
  | load =>
    have h1 : e.kphi ≠ 1 := fun h => by rw [h] at h2; exact absurd h2 (by decide)
    have h0 : e.kphi ≠ 0 := fun h => by rw [h] at h2; exact absurd h2 (by decide)
    simp only [h1, if_false]
    exact .dinv hk hs hc hg fun _ => ⟨-1, modinvLoad_inv e.ke e.kphi e h0⟩
  | loop =>
    obtain ⟨σ, hb⟩ := hu hl
    by_cases hr1 : e.r1 = 0
    · have hr0 : e.r0 = 1 := by
        have hgcd := hb.gcd
        rw [hr1, Nat.gcd_comm e.kphi.toNat, ← Nat.gcd_rec, Nat.gcd_comm e.kphi.toNat, hg] at hgcd
        exact BitVec.eq_of_toNat_eq (by simpa using hgcd)
      have hf := modinvNormalise_frame e.kphi e
      simp only [hr1, hr0, ne_eq, not_true_eq_false, if_false]
      refine .commit rfl hs.checked.noKey ?_
      simp only [hf.kn, hf.kphi, hf.ke]
      exact keyPair_of_bezout hs hc hg hb hr0
    · simp only [ne_eq, hr1, not_false_eq_true, if_true]
      exact .dinv hk hs hc hg fun _ => ⟨-σ, (modinvIter_spec e.kphi.isLt hb hr1).1⟩

/-- Every microstep of KEYGEN leaves the FSM in a state with what that state has established. -/
theorem microKeygen_at (h : KeygenAt o e) : KeygenAt o (microKeygen o e) := by
  cases h with
  | check hk => rw [microKeygen, hk]; exact keygenCheck_at o e
  | mul hk hf => rw [microKeygen, hk]; exact keygenMul_at hf e
  | einit hk hs => rw [microKeygen, hk]; exact keygenEinit_at hs
  | egcd hk hs hc hu => rw [microKeygen, hk]; exact keygenEgcd_at hk hs hc hu
  | etest hk hs hc hg => rw [microKeygen, hk]; exact keygenEtest_at hs hc hg
  | dinv hk hs hc hg hu => rw [microKeygen, hk]; exact keygenDinv_at hk hs hc hg hu
  | commit hk hv hp => rw [microKeygen, hk]; exact .commit rfl hv hp
  | failed code hk => rw [microKeygen, hk]; exact .failed code rfl

/-! ### The outcomes KEYGEN finds -/

theorem keygenEgcd_pending (e : Engine) : (keygenEgcd e).pending = e.pending := by
  have hf := gcdStep_frame e.ke e.kphi e
  unfold keygenEgcd
  split <;> next hx => rw [hx] at hf; exact hf.pending

theorem keygenDinv_pending (e : Engine) : (keygenDinv e).pending = e.pending := by
  have hf := modinvStep_frame e.ke e.kphi e
  unfold keygenDinv
  split <;> next hx => rw [hx] at hf; exact hf.pending

/-- KEYGEN finds an outcome in `K_COMMIT` and `K_ERR` alone. -/
theorem microKeygen_pending (o : Operands) (hc : e.kfsm ≠ .kCommit) (he : ∀ code, e.kfsm ≠ .kErr code) :
    (microKeygen o e).pending = e.pending := by
  unfold microKeygen
  cases hk : e.kfsm with
  | kIdle => rfl
  | kCheck => dsimp only; unfold keygenCheck; split_ifs <;> rfl
  | kMul => dsimp only; unfold keygenMul; dsimp only; split_ifs <;> rfl
  | kEinit => rfl
  | kEgcd => exact keygenEgcd_pending e
  | kEtest => dsimp only; unfold keygenEtest; dsimp only; split_ifs <;> rfl
  | kDinv => exact keygenDinv_pending e
  | kCommit => exact absurd hk hc
  | kErr code => exact absurd hk (he code)

theorem microKeygen_outcome {r : CmdOutcome} (h0 : e.pending = none) (h : KeygenAt o e)
    (hr : (microKeygen o e).pending = some r) : OutcomeAllowed .keygen o r := by
  cases h with
  | commit hk hv hp => rw [microKeygen, hk] at hr; cases hr; exact ⟨rfl, hv, hp⟩
  | failed code hk => rw [microKeygen, hk] at hr; cases hr; trivial
  | _ =>
    have hn : (microKeygen o e).pending = none := (microKeygen_pending o (by simp [*]) (by simp [*])).trans h0
    exact absurd (hn.symm.trans hr) nofun

/-- Whatever a run of a command from its acceptance finds is an outcome of the command. -/
theorem microRun_start_outcome {n : Nat} {r : CmdOutcome}
    (h : (microRun (microOf c o) n (e.start c)).pending = some r) : OutcomeAllowed c o r := by
  by_cases hc : c = .keygen
  · subst hc
    exact microRun_outcome (P := KeygenAt o) (fun _ _ => microKeygen_at) (fun _ _ => microKeygen_outcome) n (.check rfl) rfl h
  · exact microRun_outcome (P := fun _ => True) (fun _ _ _ => trivial)
      (fun e' r' h0 _ hr => (microOf_plain hc o e').outcome r' h0 hr) n trivial rfl h

/-- What the completing step of a sound state publishes is an outcome of the running command. -/
theorem finish_outcome {r : CmdOutcome} (h : s.EngineInv) (hb : s.busy = true)
    (hr : (microFinish (microOf s.lop s.operands) s.eng).pending = some r) : OutcomeAllowed s.lop s.operands r := by
  obtain ⟨e, n, he⟩ := h hb
  rw [he, microFinish, ← microRun_add] at hr
  exact microRun_start_outcome hr

/-! ### Soundness of the state -/

/-- Settles O49: the status rules are closed facts of the reset state, which has no key and no command. -/
theorem resetStateIsSound : Obligations.ResetStateIsSound where
  status := by constructor <;> decide
  key := nofun
  engine := nofun

theorem inv_popEvent (h : s.Inv) : s.popEvent.Inv := ⟨statusInv_popEvent h.status, h.key, h.engine⟩

theorem engineInv_hostEffect (h : s.EngineInv) (i : Instr) : (hostEffect i s).EngineInv := by
  cases i with
  | wrCmd w =>
    show (s.requestCommand w).EngineInv
    cases hb : s.busy with
    | true => rw [requestCommand_busy hb]; exact h
    | false => rw [requestCommand_idle hb]; exact fun _ => ⟨s.eng, 0, rfl⟩
  | _ => exact h

/-- Microsteps more leave the engine in the command's microsequence. -/
theorem engineInv_microRun (h : s.EngineInv) (hb : s.busy = true) (n : Nat) :
    ∃ (e : Engine) (m : Nat),
      microRun (microOf s.lop s.operands) n s.eng = microRun (microOf s.lop s.operands) m (e.start s.lop) := by
  obtain ⟨e, m, he⟩ := h hb
  exact ⟨e, m + n, by rw [he, ← microRun_add]⟩

theorem engineInv_engineEffect (h : s.EngineInv) (he : EngineEffect s t) : t.EngineInv := by
  cases he with
  | idle hb => exact h
  | continued hb hl h1 => exact fun _ => engineInv_microRun h hb _
  | unfinished hb => exact fun _ => engineInv_microRun h hb microFuel
  | published hb r ho => exact fun hb' => absurd hb' (by simp)

theorem keyInv_of_keysKept (h : s.KeyInv) (hk : KeysKept s t) : t.KeyInv := by
  intro hv
  rw [hk.keyN, hk.keyPhi, hk.keyE, hk.keyD]
  exact h (hk.keyValid.symm.trans hv)

/-- The completion of KEYGEN with a key, where none was valid (42_key_derivation.md R161, R170). -/
structure KeyCommitted (s t : State) : Prop where
  noKey : s.keyValid = false
  busy : s.busy = true
  command : s.lop = .keygen
  ended : t.busy = false
  done : t.done = true
  key : t.KeyInv

theorem keys_engineEffect (hi : s.EngineInv) (he : EngineEffect s t) : KeysKept s t ∨ KeyCommitted s t := by
  cases he with
  | idle => exact .inl (keysKept_refl s)
  | continued => exact .inl ⟨rfl, rfl, rfl, rfl, rfl⟩
  | unfinished => exact .inl ⟨rfl, rfl, rfl, rfl, rfl⟩
  | published hb r ho =>
    cases r with
    | okRes v => exact .inl ⟨rfl, rfl, rfl, rfl, rfl⟩
    | err code => exact .inl ⟨rfl, rfl, rfl, rfl, rfl⟩
    | okKey n phi e d =>
      obtain ⟨hc, hv, hp⟩ := finish_outcome hi hb ho
      exact .inr ⟨hv, hb, hc, rfl, rfl, fun _ => ⟨_, _, hp⟩⟩

/-- But for reset, an event keeps the key registers or commits a key. -/
theorem keys_eventEffect {ev : Event} (hi : s.EngineInv) (hn : ev ≠ .resetAssert) (he : EventEffect s ev t) :
    KeysKept s t ∨ KeyCommitted s t := by
  cases he with
  | transaction hr tr v b hb =>
    have hf := (hostEffect_frame (decodeTransaction tr) s).toKeysKept
    exact .inl ⟨hf.keyValid, hf.keyN, hf.keyPhi, hf.keyE, hf.keyD⟩
  | engineStep => exact keys_engineEffect hi (engineNext_effect s)
  | idleEdge =>
    obtain ⟨hv, hkn, hphi, hke, hkd⟩ | ⟨hv, hb, hc, hb', hd, hk⟩ :=
      keys_engineEffect (s := s.noResponse) hi (engineNext_effect _)
    · exact .inl ⟨hv, hkn, hphi, hke, hkd⟩
    · exact .inr ⟨hv, hb, hc, hb', hd, hk⟩
  | resetAssert => exact absurd rfl hn
  | ignored => exact .inl (keysKept_refl s)
  | release => exact .inl ⟨rfl, rfl, rfl, rfl, rfl⟩
  | leave => exact .inl ⟨rfl, rfl, rfl, rfl, rfl⟩

theorem keyInv_eventEffect {ev : Event} (h : s.Inv) (he : EventEffect s ev t) : t.KeyInv := by
  obtain rfl | hn := eq_or_ne ev .resetAssert
  · rw [eq_enterReset_of_effect he]
    exact nofun
  · obtain hk | hk := keys_eventEffect h.engine hn he
    · exact keyInv_of_keysKept h.key hk
    · exact hk.key

theorem engineInv_eventEffect {ev : Event} (h : s.EngineInv) (he : EventEffect s ev t) : t.EngineInv := by
  cases he with
  | transaction hr tr v b hb => exact engineInv_hostEffect h (decodeTransaction tr)
  | engineStep => exact engineInv_engineEffect h (engineNext_effect s)
  | idleEdge => exact engineInv_engineEffect (s := s.noResponse) h (engineNext_effect _)
  | resetAssert => exact nofun
  | ignored => exact h
  | release => exact h
  | leave => exact h

/-- Settles O51: each effect of an event keeps the three parts. -/
theorem stepKeepsTheStateSound : Obligations.StepKeepsTheStateSound := by
  intro s t h hs
  have hp := inv_popEvent h
  have he := step_effect hs
  exact ⟨statusInv_eventEffect hp.status he, keyInv_eventEffect hp he, engineInv_eventEffect hp.engine he⟩

/-- Settles O53: only KEYGEN's outcome is a key, and it finds one only while none is valid. -/
theorem keyIsWrittenOncePerReset : Obligations.KeyIsWrittenOncePerReset := by
  intro s t h hs hn
  have hp := inv_popEvent h
  obtain hk | hk := keys_eventEffect hp.engine hn (step_effect hs)
  · exact ⟨fun h1 => ⟨hk.keyValid.trans h1, hk.keyN, hk.keyPhi, hk.keyE, hk.keyD⟩,
      fun h0 h1 => absurd (h1.symm.trans (hk.keyValid.trans h0)) nofun⟩
  · exact ⟨fun h1 => absurd (h1.symm.trans hk.noKey) nofun, fun _ _ => ⟨hk.busy, hk.command, hk.ended, hk.done⟩⟩

/-! ### The result register -/

/-- An engine step keeps RES, or publishes the result of a result-producing command. -/
theorem res_engineEffect (hi : s.EngineInv) (he : EngineEffect s t) :
    t.res = s.res ∨ (s.busy = true ∧ s.lop ≠ .keygen ∧ s.lop ≠ .illegal ∧ t.busy = false ∧ t.done = true) := by
  cases he with
  | idle hb => exact .inl rfl
  | continued hb hl h1 => exact .inl rfl
  | unfinished hb => exact .inl rfl
  | published hb r ho =>
    cases r with
    | okRes v =>
      obtain ⟨hk, hl⟩ := finish_outcome hi hb ho
      exact .inr ⟨hb, hk, hl, rfl, rfl⟩
    | okKey n phi e d => exact .inl rfl
    | err code => exact .inl rfl

/-- Settles O55: no event but reset and an engine step touches RES. -/
theorem onlyASuccessfulCommandChangesRes : Obligations.OnlyASuccessfulCommandChangesRes := by
  intro s t h hs hne
  generalize hev : s.nextEvent = ev
  have he : EventEffect s.popEvent ev t := hev ▸ step_effect hs
  have hi := (inv_popEvent h).engine
  cases he with
  | transaction hr tr v b hb => exact absurd (hostEffect_frame (decodeTransaction tr) s.popEvent).res hne
  | engineStep => exact .inr ((res_engineEffect hi (engineNext_effect _)).resolve_left hne)
  | idleEdge =>
    exact .inr ((res_engineEffect (s := s.popEvent.noResponse) hi (engineNext_effect _)).resolve_left hne)
  | resetAssert => exact .inl rfl
  | ignored => exact absurd rfl hne
  | release => exact absurd rfl hne
  | leave => exact absurd rfl hne

end Sys2Proof.Machine

/-! PROOFS. The register port (20_memory.md): which transactions get which answer, reads and repeated writes, the byte view and the
system addresses. -/

namespace Sys2Proof.Machine

variable {s u : State} {tr : Transaction} {i : Instr}

/-! ### The three answers of the port -/

/-- The low three bits of an offset say whether it is a multiple of 8 (20_memory.md R63). -/
theorem alignedAddr_iff (addr : BitVec 7) : alignedAddr addr = true ↔ addr.toNat % 8 = 0 := by
  have h : (addr &&& 7).toNat = addr.toNat % 8 := Nat.and_two_pow_sub_one_eq_mod addr.toNat 3
  rw [alignedAddr, beq_iff_eq, ← h]
  exact BitVec.toNat_inj.symm

theorem decodeTransaction_malformed (h : tr.size ≠ 8 ∨ tr.addr.toNat % 8 ≠ 0) :
    decodeTransaction tr = .busError tr.we tr.addr tr.size := by
  have hc : (!alignedAddr tr.addr || tr.size != 8) = true := by
    simpa [← alignedAddr_iff] using h.symm
  rw [decodeTransaction, if_pos hc]

theorem decodeTransaction_legal (hs : tr.size = 8) (ha : tr.addr.toNat % 8 = 0) :
    decodeTransaction tr = if tr.we then decodeWrite tr.addr tr.wdata else decodeRead tr.addr := by
  simp [decodeTransaction, (alignedAddr_iff tr.addr).mpr ha, hs]

/-- A malformed transaction gets the error response and nothing else happens (20_memory.md R64). -/
theorem exec_malformed (h : tr.size ≠ 8 ∨ tr.addr.toNat % 8 ≠ 0) (s : State) :
    exec (decodeTransaction tr) s = .next (s.respond 0 true) := by
  rw [decodeTransaction_malformed h]
  rfl

/-- The instruction of a legal read answers the read value of its offset (44_host_access.md R200). -/
theorem exec_decodeRead_eq (addr : BitVec 7) (s : State) :
    exec (decodeRead addr) s = .next (s.respond (s.readval addr) false) := by
  unfold decodeRead
  split
  case h_13 => simp only [State.readval, *]; rfl
  all_goals
    next h =>
      simp only [State.readval, h]
      rfl

theorem exec_decodeWrite_eq (addr : BitVec 7) (v : Word) (s : State) :
    exec (decodeWrite addr v) s = .next ((hostEffect (decodeWrite addr v) s).respond 0 false) := by
  unfold decodeWrite
  split <;> rfl

/-- A legal read takes no effect but its response. -/
theorem exec_read (hw : tr.we = false) (hs : tr.size = 8) (ha : tr.addr.toNat % 8 = 0) (s : State) :
    exec (decodeTransaction tr) s = .next (s.respond (s.readval tr.addr) false) := by
  rw [decodeTransaction_legal hs ha, hw]
  exact exec_decodeRead_eq tr.addr s

/-- A legal write has the effect of its instruction and returns no data. -/
theorem exec_write (hw : tr.we = true) (hs : tr.size = 8) (ha : tr.addr.toNat % 8 = 0) (s : State) :
    exec (decodeTransaction tr) s = .next ((hostEffect (decodeWrite tr.addr tr.wdata) s).respond 0 false) := by
  rw [decodeTransaction_legal hs ha, hw]
  exact exec_decodeWrite_eq tr.addr tr.wdata s

/-- Settles O6: the three answers of the port, of which only the malformed transaction's is the error response. -/
theorem malformedTransactionsHaveNoEffect : Obligations.MalformedTransactionsHaveNoEffect := by
  refine ⟨fun tr s h => exec_malformed h s, fun tr s hs ha => ?_, fun we addr size s => rfl⟩
  cases hw : tr.we with
  | false => exact ⟨_, exec_read hw hs ha s, rfl, rfl⟩
  | true => exact ⟨_, exec_write hw hs ha s, rfl, rfl⟩

/-! ### Reads and repeated writes -/

/-- Out of a BUSY window a CMD write is accepted. -/
theorem exec_wrCmd_idle (hb : s.busy = false) (w : Word) :
    exec (.wrCmd w) s = .next ((s.accept w).respond 0 false) := by
  rw [exec, execWrCmd, requestCommand_idle hb]
  rfl

/-- In a BUSY window a CMD write is dropped. -/
theorem exec_wrCmd_busy (hb : s.busy = true) (w : Word) :
    exec (.wrCmd w) s = .next (s.dropCommand.respond 0 false) := by
  rw [exec, execWrCmd, requestCommand_busy hb]
  rfl

/-- A STATUS write has nothing left to clear after the same write. -/
theorem w1c_w1c (v : Word) (b : Bool) (s : State) : (((s.w1c v).respond 0 b).w1c v).respond 0 b = (s.w1c v).respond 0 b := by
  simp [State.w1c, State.respond]

/-- An instruction that answers the same in every state and does nothing else is idempotent. -/
theorem exec_idempotent_of_respond {b : Bool} (hx : ∀ s : State, exec i s = .next (s.respond 0 b))
    (h : exec i s = .next u) : exec i u = .next u := by
  rw [hx] at h
  cases h
  exact hx _

/-- The writes of the reserved offsets and of the read-only registers are ignored (20_memory.md R65). -/
theorem exec_ignoredWrite {addr : BitVec 7} {v : Word}
    (hi : i ∈ [Instr.wrReserved addr v, .wrId v, .wrRes v, .wrKeyN v, .wrKeyPhi v, .wrKeyE v, .wrKeyD v]) (s : State) :
    exec i s = .next (s.respond 0 false) := by
  simp only [List.mem_cons, List.not_mem_nil, or_false] at hi
  obtain rfl | rfl | rfl | rfl | rfl | rfl | rfl := hi <;> rfl

/-- The writes of CTRL, the operands and STATUS are idempotent. -/
theorem exec_storingWrite_idempotent {v : Word} (hi : i ∈ [Instr.wrCtrl v, .wrOpa v, .wrOpb v, .wrOpm v, .wrStatus v])
    (h : exec i s = .next u) : exec i u = .next u := by
  simp only [List.mem_cons, List.not_mem_nil, or_false] at hi
  obtain rfl | rfl | rfl | rfl | rfl := hi
  case inr.inr.inr.inr =>
    cases h
    exact congrArg Host.Outcome.next (w1c_w1c v false s)
  all_goals cases h; rfl

/-- Settles O13: a read is one of the two answers without an effect; the CMD write is accepted, and then dropped. -/
theorem readsHaveNoSideEffects : Obligations.ReadsHaveNoSideEffects := by
  refine ⟨fun tr s u hw h => ?_, fun s u v i hi => exec_storingWrite_idempotent hi, fun s u v addr size i hi => ?_,
    fun s w hb => ⟨⟨_, _, exec_wrCmd_idle hb w, exec_wrCmd_busy rfl w, rfl⟩, _, exec_wrCmd_idle hb w, rfl, rfl⟩⟩
  · by_cases hm : tr.size ≠ 8 ∨ tr.addr.toNat % 8 ≠ 0
    · rw [exec_malformed hm] at h
      cases h
      rfl
    · push Not at hm
      rw [exec_read hw hm.1 hm.2] at h
      cases h
      rfl
  · by_cases he : i = .busError true addr size
    · exact exec_idempotent_of_respond (b := true) fun _ => he ▸ rfl
    · have hi' : i ∈ [Instr.wrReserved addr v, .wrId v, .wrRes v, .wrKeyN v, .wrKeyPhi v, .wrKeyE v, .wrKeyD v] := by
        simp only [List.mem_cons, List.not_mem_nil, or_false] at hi ⊢
        tauto
      exact exec_idempotent_of_respond (exec_ignoredWrite hi')

/-! ### Reserved and read-only offsets -/

/-- The aligned offsets whose writes are ignored: the reserved ones and those of the read-only registers (20_memory.md R65). -/
theorem decodeWrite_ignored {addr : BitVec 7}
    (ha : addr.toNat ∈ [0x60, 0x68, 0x70, 0x78] ++ [0x00, 0x38, 0x40, 0x48, 0x50, 0x58]) (v : Word) :
    addr.toNat % 8 = 0 ∧
      decodeWrite addr v ∈ [Instr.wrReserved addr v, .wrId v, .wrRes v, .wrKeyN v, .wrKeyPhi v, .wrKeyE v, .wrKeyD v] := by
  simp only [List.cons_append, List.nil_append, List.mem_cons, List.not_mem_nil, or_false] at ha
  obtain h | h | h | h | h | h | h | h | h | h := ha <;> simp [decodeWrite, h]

theorem exec_write_ignoredOffset {addr : BitVec 7}
    (ha : addr.toNat ∈ [0x60, 0x68, 0x70, 0x78] ++ [0x00, 0x38, 0x40, 0x48, 0x50, 0x58]) (v : Word) (s : State) :
    exec (decodeTransaction ⟨true, addr, 8, v⟩) s = .next (s.respond 0 false) := by
  obtain ⟨h8, hi⟩ := decodeWrite_ignored ha v
  rw [decodeTransaction_legal rfl h8]
  exact exec_ignoredWrite hi s

theorem exec_read_reservedOffset {addr : BitVec 7} (ha : addr.toNat ∈ [0x60, 0x68, 0x70, 0x78]) (v : Word) (s : State) :
    exec (decodeTransaction ⟨false, addr, 8, v⟩) s = .next (s.respond 0 false) := by
  obtain ⟨h8, -⟩ := decodeWrite_ignored (List.mem_append_left _ ha) v
  have h0 : s.readval addr = 0 := by
    simp only [List.mem_cons, List.not_mem_nil, or_false] at ha
    obtain h | h | h | h := ha <;> simp [State.readval, h]
  rw [exec_read rfl rfl h8, h0]

/-- Settles O7: each of these transactions is a read of 0 or an ignored write. -/
theorem reservedAndReadOnlyOffsetsIgnoreWrites : Obligations.ReservedAndReadOnlyOffsetsIgnoreWrites := by
  intro s addr v
  refine ⟨rfl, rfl, fun i hi => exec_ignoredWrite hi s, fun we ha => ?_,
    fun ha => exec_write_ignoredOffset (List.mem_append_right _ ha) v s,
    decodeTransaction_legal rfl (show (0x18 : BitVec 7).toNat % 8 = 0 by decide)⟩
  cases we with
  | false => exact exec_read_reservedOffset ha v s
  | true => exact exec_write_ignoredOffset (List.mem_append_left _ ha) v s

/-! ### The byte view and the system addresses -/

/-- An offset splits into its register's and the byte lane (20_memory.md R66). -/
theorem registerOffset_and_lane {off k : Nat} (h8 : off % 8 = 0) (h128 : off < 128) (hk : k < 8) :
    (BitVec.ofNat 7 (off + k) &&& 0x78) = BitVec.ofNat 7 off ∧ (BitVec.ofNat 7 (off + k) &&& 7).toNat = k := by
  have hmask : ∀ a : BitVec 7, (a &&& 0x78).toNat = a.toNat - a.toNat % 8 ∧ (a &&& 7).toNat = a.toNat % 8 := by decide
  have ha : (BitVec.ofNat 7 (off + k)).toNat = off + k := by simp; omega
  obtain ⟨hoff, hlane⟩ := hmask (BitVec.ofNat 7 (off + k))
  rw [ha] at hoff hlane
  exact ⟨BitVec.eq_of_toNat_eq (by rw [hoff]; simp; omega), by omega⟩

/-- Settles O17: the offset splits into register and lane, and a lane is eight bits of the value. -/
theorem registerBytesAreLittleEndian : Obligations.RegisterBytesAreLittleEndian := by
  intro s off k h8 h128 hk
  obtain ⟨hoff, hlane⟩ := registerOffset_and_lane h8 h128 hk
  rw [State.registerByte, hoff, hlane, BitVec.extractLsb'_toNat, Nat.shiftRight_eq_div_pow]

/-- Settles O60: a page of 128 bytes at a multiple of 128, in which an address and its offset determine each other. -/
theorem systemAddressesReachTheirOffset : Obligations.SystemAddressesReachTheirOffset := by
  refine fun inst => ⟨Nat.mul_mod_right 0x80 _, fun off hlt => ?_, fun addr off h => ?_⟩
  · have hpage : Config.baseAddr inst + off < Config.baseAddr inst + Config.registerSpaceBytes := Nat.add_lt_add_left hlt _
    rw [offsetOf, if_pos ⟨Nat.le_add_right _ _, hpage⟩, Nat.add_sub_cancel_left]
  · unfold offsetOf at h
    split_ifs at h with hpage
    obtain ⟨hle, hlt⟩ := hpage
    have hlt' : addr - Config.baseAddr inst < 2 ^ 7 := Nat.sub_lt_left_of_lt_add hle hlt
    cases h
    rw [BitVec.toNat_ofNat, Nat.mod_eq_of_lt hlt', Nat.add_sub_cancel' hle]

end Sys2Proof.Machine

/-! PROOFS. Every command's microsequence ends within the fuel: a bound on the microsteps left falls at each of them. -/

namespace Sys2Proof.Machine

variable {s : State} {c : Command} {o : Operands} {e : Engine}

/-! ### Microsteps left -/

/-- A run ends if each microstep finds the outcome or lowers a bound `μ`. -/
theorem microRun_ends {f : Engine → Engine} {P : Engine → Prop} {μ : Engine → Nat}
    (hP : ∀ e, e.pending = none → P e → P (f e))
    (hμ : ∀ e, e.pending = none → P e → (f e).pending.isSome = true ∨ μ (f e) < μ e) {n : Nat} (he : P e) (hn : μ e < n) :
    (microRun f n e).pending.isSome = true := by
  induction n generalizing e with
  | zero => exact absurd hn (Nat.not_lt_zero _)
  | succ n ih =>
    cases hp : e.pending with
    | some r => rw [microRun_done (by simp [hp])]; simp [hp]
    | none =>
      rw [microRun_succ_of_none hp]
      obtain hd | hlt := hμ e hp he
      · rwa [microRun_done hd]
      · exact ih (hP e hp he) (by omega)

/-- A bound on the iterations of a unit whose loop counts the register `x` down to 0, its load included. -/
def unitLeft (x : Engine → Word) (e : Engine) : Nat :=
  match e.unit with
  | .load => 2 ^ 64
  | .loop => (x e).toNat

theorem unitLeft_le (x : Engine → Word) (e : Engine) : unitLeft x e ≤ 2 ^ 64 := by
  unfold unitLeft
  cases e.unit with
  | load => exact le_rfl
  | loop => exact (x e).isLt.le

theorem unitLeft_load (x : Engine → Word) (hu : e.unit = .load) : unitLeft x e = 2 ^ 64 := by rw [unitLeft, hu]

theorem unitLeft_loop (x : Engine → Word) (hu : e.unit = .loop) : unitLeft x e = (x e).toNat := by rw [unitLeft, hu]

theorem gcdStep_unitLeft {a b : Word} (h : (gcdStep a b e).2 = .running) :
    unitLeft Engine.gb (gcdStep a b e).1 < unitLeft Engine.gb e := by
  unfold gcdStep at h ⊢
  cases hu : e.unit with
  | load => rw [unitLeft_load _ hu]; exact b.isLt
  | loop =>
    by_cases h0 : e.gb = 0
    · simp [hu, h0] at h
    · simp only [h0, if_false]
      rw [unitLeft_loop _ hu, unitLeft_loop _ (show (gcdIter e).unit = .loop from hu)]
      exact Nat.mod_lt _ (BitVec.toNat_pos_of_ne_zero h0)

theorem modinvStep_unitLeft {a m : Word} (h : (modinvStep a m e).2 = .running) :
    unitLeft Engine.r1 (modinvStep a m e).1 < unitLeft Engine.r1 e := by
  unfold modinvStep at h ⊢
  cases hu : e.unit with
  | load =>
    by_cases h1 : m = 1
    · simp [hu, h1] at h
    · simp only [h1, if_false]
      rw [unitLeft_load _ hu]
      exact (red a m).isLt
  | loop =>
    by_cases h0 : e.r1 = 0
    · simp only [hu, h0, ne_eq, not_true_eq_false, if_false] at h
      split_ifs at h
    · simp only [ne_eq, h0, not_false_eq_true, if_true]
      have hr1 : (modinvIter e).r1.toNat = e.r0.toNat % e.r1.toNat := by
        have hlt : e.r0.toNat % e.r1.toNat < 2 ^ 64 := lt_of_le_of_lt (Nat.mod_le _ _) e.r0.isLt
        simpa [modinvIter, divUnit, ← Nat.mod_eq_sub_div_mul] using hlt
      rw [unitLeft_loop _ hu, unitLeft_loop _ (show (modinvIter e).unit = .loop from hu), hr1]
      exact Nat.mod_lt _ (BitVec.toNat_pos_of_ne_zero h0)

theorem modexpStep_unitLeft {b ex m : Word} (h : (modexpStep b ex m e).2 = .running) :
    unitLeft Engine.exp (modexpStep b ex m e).1 < unitLeft Engine.exp e := by
  unfold modexpStep at h ⊢
  cases hu : e.unit with
  | load => rw [unitLeft_load _ hu]; exact ex.isLt
  | loop =>
    by_cases h0 : e.exp = 0
    · simp [hu, h0] at h
    · have hiter : (modexpIter m e).unit = .loop ∧ (modexpIter m e).exp = e.exp >>> 1 := by
        unfold modexpIter modexpSquare modexpMultiply
        split_ifs <;> exact ⟨hu, rfl⟩
      simp only [h0, if_false]
      rw [unitLeft_loop _ hu, unitLeft_loop _ hiter.1, hiter.2, BitVec.toNat_ushiftRight, Nat.shiftRight_eq_div_pow]
      exact Nat.div_lt_self (BitVec.toNat_pos_of_ne_zero h0) (by decide)

/-- A unit's answer is the outcome or comes a microstep closer to it. -/
theorem settle_progress {r : Engine × UnitResult} {μ : Engine → Nat} (h : r.2 = .running → μ r.1 < μ e) :
    (settle r).pending.isSome = true ∨ μ (settle r) < μ e := by
  obtain ⟨e', u⟩ := r
  cases u with
  | running => exact .inr (h rfl)
  | ok v => exact .inl rfl
  | fail => exact .inl rfl

/-! ### The commands other than KEYGEN -/

/-- A bound on the microsteps that a command other than KEYGEN still takes before it finds its outcome. -/
def plainLeft : Command → Engine → Nat
  | .gcd => unitLeft Engine.gb
  | .modinv => unitLeft Engine.r1
  | .modmul => unitLeft fun _ => 0
  | .modexp | .encrypt | .decrypt => unitLeft Engine.exp
  | .keygen | .illegal => fun _ => 0

theorem plainLeft_le (c : Command) (e : Engine) : plainLeft c e ≤ 2 ^ 64 := by
  cases c with
  | keygen => exact Nat.zero_le _
  | illegal => exact Nat.zero_le _
  | modmul => exact unitLeft_le (fun _ => 0) e
  | _ => exact unitLeft_le _ e

theorem cipherMicro_progress (ex : Word) (o : Operands) (e : Engine) :
    (cipherMicro ex o e).pending.isSome = true ∨ unitLeft Engine.exp (cipherMicro ex o e) < unitLeft Engine.exp e := by
  unfold cipherMicro
  split
  · exact .inl rfl
  · exact settle_progress modexpStep_unitLeft

theorem microModmul_progress (o : Operands) (e : Engine) :
    (microModmul o e).pending.isSome = true ∨ plainLeft .modmul (microModmul o e) < plainLeft .modmul e := by
  unfold microModmul
  split
  · exact .inl rfl
  · cases hu : e.unit with
    | load =>
      refine .inr ?_
      show 0 < unitLeft (fun _ => 0) e
      rw [unitLeft_load _ hu]
      decide
    | loop => exact .inl rfl

theorem microOf_progress (hc : c ≠ .keygen) (o : Operands) (e : Engine) :
    (microOf c o e).pending.isSome = true ∨ plainLeft c (microOf c o e) < plainLeft c e := by
  cases c with
  | gcd => exact settle_progress gcdStep_unitLeft
  | modinv =>
    show (microModinv o e).pending.isSome = true ∨ unitLeft Engine.r1 (microModinv o e) < unitLeft Engine.r1 e
    unfold microModinv
    split
    · exact .inl rfl
    · exact settle_progress modinvStep_unitLeft
  | modmul => exact microModmul_progress o e
  | modexp =>
    show (microModexp o e).pending.isSome = true ∨ unitLeft Engine.exp (microModexp o e) < unitLeft Engine.exp e
    unfold microModexp
    split
    · exact .inl rfl
    · exact settle_progress modexpStep_unitLeft
  | keygen => exact absurd rfl hc
  | encrypt => exact cipherMicro_progress o.keyE o e
  | decrypt => exact cipherMicro_progress o.keyD o e
  | illegal => exact .inl rfl

/-! ### KEYGEN -/

/-- A bound on the microsteps of the search from the candidate `x` on (42_key_derivation.md R165, R166): for each odd number up to
`E_SEARCH_LIMIT` a run of `gcd_unit` and a test. -/
def searchLeft (x : Nat) : Nat := (Config.eSearchLimit + 2 - x) / 2 * (2 ^ 64 + 2)

theorem searchLeft_next {x : Nat} (h : x ≤ Config.eSearchLimit) : searchLeft x = searchLeft (x + 2) + (2 ^ 64 + 2) := by
  unfold searchLeft
  unfold Config.eSearchLimit at *
  omega

/-- A bound on the microsteps KEYGEN still takes before it finds its outcome, by the state of its FSM (R172). -/
def keygenLeft (e : Engine) : Nat :=
  match e.kfsm with
  | .kCheck => searchLeft 3 + (2 ^ 64 + 4)
  | .kMul => searchLeft 3 + (2 ^ 64 + 3)
  | .kEinit => searchLeft 3 + (2 ^ 64 + 2)
  | .kEgcd => searchLeft e.ke.toNat + unitLeft Engine.gb e + 1
  | .kEtest => searchLeft e.ke.toNat
  | .kDinv => unitLeft Engine.r1 e + 1
  | .kCommit | .kErr _ | .kIdle => 0

theorem keygenLeft_check (hk : e.kfsm = .kCheck) : keygenLeft e = searchLeft 3 + (2 ^ 64 + 4) := by rw [keygenLeft, hk]

theorem keygenLeft_mul (hk : e.kfsm = .kMul) : keygenLeft e = searchLeft 3 + (2 ^ 64 + 3) := by rw [keygenLeft, hk]

theorem keygenLeft_einit (hk : e.kfsm = .kEinit) : keygenLeft e = searchLeft 3 + (2 ^ 64 + 2) := by rw [keygenLeft, hk]

theorem keygenLeft_egcd (hk : e.kfsm = .kEgcd) : keygenLeft e = searchLeft e.ke.toNat + unitLeft Engine.gb e + 1 := by
  rw [keygenLeft, hk]

theorem keygenLeft_etest (hk : e.kfsm = .kEtest) : keygenLeft e = searchLeft e.ke.toNat := by rw [keygenLeft, hk]

theorem keygenLeft_dinv (hk : e.kfsm = .kDinv) : keygenLeft e = unitLeft Engine.r1 e + 1 := by rw [keygenLeft, hk]

theorem keygenLeft_commit (hk : e.kfsm = .kCommit) : keygenLeft e = 0 := by rw [keygenLeft, hk]

theorem keygenLeft_err {code : ErrCode} (hk : e.kfsm = .kErr code) : keygenLeft e = 0 := by rw [keygenLeft, hk]

theorem keygenCheck_left (hk : e.kfsm = .kCheck) (p q : Word) (kv : Bool) : keygenLeft (keygenCheck p q kv e) < keygenLeft e := by
  rw [keygenLeft_check hk]
  unfold keygenCheck
  split_ifs
  · rw [keygenLeft_err rfl]; omega
  · rw [keygenLeft_err rfl]; omega
  · rw [keygenLeft_mul rfl]; omega

theorem keygenMul_left (hk : e.kfsm = .kMul) (p q : Word) : keygenLeft (keygenMul p q e) < keygenLeft e := by
  rw [keygenLeft_mul hk]
  unfold keygenMul
  dsimp only
  split_ifs
  · rw [keygenLeft_err rfl]; omega
  · rw [keygenLeft_einit rfl]; omega

theorem keygenEinit_left (hk : e.kfsm = .kEinit) : keygenLeft (keygenEinit e) < keygenLeft e := by
  have hke : (keygenEinit e).ke.toNat = 3 := rfl
  rw [keygenLeft_einit hk, keygenLeft_egcd (e := keygenEinit e) rfl, hke, unitLeft_load (e := keygenEinit e) _ rfl]
  omega

theorem keygenEgcd_left (hk : e.kfsm = .kEgcd) : keygenLeft (keygenEgcd e) < keygenLeft e := by
  have hf := gcdStep_frame e.ke e.kphi e
  have hu := gcdStep_unitLeft (a := e.ke) (b := e.kphi) (e := e)
  rw [keygenLeft_egcd hk]
  unfold keygenEgcd
  split
  case h_1 hx =>
    rw [hx] at hf hu
    rw [keygenLeft_egcd (hf.kfsm.trans hk), hf.ke]
    exact Nat.add_lt_add_right (Nat.add_lt_add_left (hu rfl) _) 1
  case h_2 hx =>
    rw [hx] at hf
    rw [keygenLeft_etest rfl]
    show searchLeft _ < _
    rw [hf.ke]
    omega

theorem keygenEtest_left (hk : e.kfsm = .kEtest) (hc : Candidate e.kphi.toNat e.ke.toNat) :
    keygenLeft (keygenEtest e) < keygenLeft e := by
  have hnext : (e.ke + 2).toNat = e.ke.toNat + 2 := by
    have hlim : e.ke.toNat ≤ 65537 := hc.limit
    simp
    omega
  have hs := searchLeft_next hc.limit
  rw [keygenLeft_etest hk]
  unfold keygenEtest
  dsimp only
  split_ifs
  · rw [keygenLeft_dinv rfl, unitLeft_load _ rfl]; omega
  · rw [keygenLeft_err rfl]; omega
  · rw [keygenLeft_egcd rfl, unitLeft_load _ rfl, hnext]; omega

theorem keygenDinv_left (hk : e.kfsm = .kDinv) : keygenLeft (keygenDinv e) < keygenLeft e := by
  have hf := modinvStep_frame e.ke e.kphi e
  have hu := modinvStep_unitLeft (a := e.ke) (m := e.kphi) (e := e)
  rw [keygenLeft_dinv hk]
  unfold keygenDinv
  split
  case h_1 hx =>
    rw [hx] at hf hu
    rw [keygenLeft_dinv (hf.kfsm.trans hk)]
    exact Nat.add_lt_add_right (hu rfl) 1
  all_goals
    rw [keygenLeft_commit rfl]
    exact Nat.succ_pos _

theorem microKeygen_progress (h : KeygenAt o e) :
    (microKeygen o e).pending.isSome = true ∨ keygenLeft (microKeygen o e) < keygenLeft e := by
  cases h with
  | check hk => rw [microKeygen, hk]; exact .inr (keygenCheck_left hk _ _ _)
  | mul hk hf => rw [microKeygen, hk]; exact .inr (keygenMul_left hk _ _)
  | einit hk hs => rw [microKeygen, hk]; exact .inr (keygenEinit_left hk)
  | egcd hk hs hc hu => rw [microKeygen, hk]; exact .inr (keygenEgcd_left hk)
  | etest hk hs hc hg => rw [microKeygen, hk]; exact .inr (keygenEtest_left hk hc)
  | dinv hk hs hc hg hu => rw [microKeygen, hk]; exact .inr (keygenDinv_left hk)
  | commit hk hv hp => rw [microKeygen, hk]; exact .inl rfl
  | failed code hk => rw [microKeygen, hk]; exact .inl rfl

/-! ### Every command ends -/

/-- From its acceptance every command finds its outcome within the fuel, whatever its operands and the working registers. -/
theorem microRun_start_ends (c : Command) (o : Operands) (e : Engine) :
    (microRun (microOf c o) microFuel (e.start c)).pending.isSome = true := by
  by_cases hc : c = .keygen
  · subst hc
    refine microRun_ends (P := KeygenAt o) (μ := keygenLeft) (fun _ _ => microKeygen_at) (fun _ _ => microKeygen_progress)
      (.check rfl) ?_
    rw [keygenLeft_check rfl]
    unfold searchLeft microFuel
    decide
  · refine microRun_ends (P := fun _ => True) (μ := plainLeft c) (fun _ _ _ => trivial)
      (fun e' _ _ => microOf_progress hc o e') trivial (lt_of_le_of_lt (plainLeft_le c _) ?_)
    unfold microFuel
    decide

/-- In a sound state the completing step finds the running command's outcome. -/
theorem exists_finish_outcome (h : s.EngineInv) (hb : s.busy = true) :
    ∃ r, (microFinish (microOf s.lop s.operands) s.eng).pending = some r := by
  obtain ⟨e, n, he⟩ := h hb
  rw [he, microFinish_of_microRun le_rfl rfl (microRun_start_ends s.lop s.operands e) n]
  exact Option.isSome_iff_exists.mp (microRun_start_ends s.lop s.operands e)

end Sys2Proof.Machine

/-! PROOFS. One edge of the clock (20_memory.md R70): its two events one after the other, and as a schedule of steps. -/

namespace Sys2Proof.Machine

variable {s u : State} {tr : Transaction}

/-! ### An edge as a schedule of steps -/

theorem run_succ (n : Nat) (s : State) : Sys2Proof.core.run (n + 1) s = andThen (step s) (Sys2Proof.core.run n) := by
  simp only [Host.Core.run]
  show _ = andThen (Sys2Proof.core.step s) _
  cases Sys2Proof.core.step s <;> rfl

theorem run_one (s : State) : Sys2Proof.core.run 1 s = step s := by
  rw [run_succ]
  cases step s <;> rfl

/-- The state with these events to come. -/
def State.withEvents (s : State) (es : List Event) : State := { s with events := es }

theorem step_withEvents_cons (e : Event) (es : List Event) (s : State) :
    step (s.withEvents (e :: es)) = handleEvent e (s.withEvents es) :=
  step_cons rfl

theorem requestCommand_withEvents (w : Word) (es : List Event) (s : State) :
    (s.withEvents es).requestCommand w = (s.requestCommand w).withEvents es := by
  cases hb : s.busy with
  | true => rw [requestCommand_busy hb, requestCommand_busy (s := s.withEvents es) hb]; rfl
  | false => rw [requestCommand_idle hb, requestCommand_idle (s := s.withEvents es) hb]; rfl

theorem hostEffect_withEvents (i : Instr) (es : List Event) (s : State) :
    hostEffect i (s.withEvents es) = (hostEffect i s).withEvents es := by
  cases i with
  | wrCmd w => exact requestCommand_withEvents w es s
  | _ => rfl

/-- A host transaction neither sees nor changes the events to come. -/
theorem exec_decodeTransaction_withEvents (tr : Transaction) (s : State) :
    ∃ u : State, ∀ es, exec (decodeTransaction tr) (s.withEvents es) = .next (u.withEvents es) := by
  by_cases hm : tr.size ≠ 8 ∨ tr.addr.toNat % 8 ≠ 0
  · exact ⟨s.respond 0 true, fun es => exec_malformed hm _⟩
  · push Not at hm
    obtain ⟨hs, ha⟩ := hm
    cases hw : tr.we with
    | false => exact ⟨s.respond (s.readval tr.addr) false, fun es => exec_read hw hs ha _⟩
    | true =>
      refine ⟨(hostEffect (decodeWrite tr.addr tr.wdata) s).respond 0 false, fun es => ?_⟩
      rw [exec_write hw hs ha, hostEffect_withEvents]
      rfl

/-- Nor does the event of a transaction, whatever the reset phase. -/
theorem handleEvent_transaction_withEvents (tr : Transaction) (s : State) :
    (∀ es, handleEvent (.transaction tr) (s.withEvents es) = .fault .beforeFirstReset) ∨
      ∃ u : State, ∀ es, handleEvent (.transaction tr) (s.withEvents es) = .next (u.withEvents es) := by
  cases hr : s.rst with
  | beforeFirst => exact .inl fun es => by simp [handleEvent, State.withEvents, hr, beforeFirstEvent]
  | held => exact .inr ⟨s, fun es => by simp [handleEvent, State.withEvents, hr, heldEvent]⟩
  | released => exact .inr ⟨s.leaveReset, fun es => by simp [handleEvent, State.withEvents, hr, releasedEvent, State.leaveReset]⟩
  | running =>
    obtain ⟨u, hu⟩ := exec_decodeTransaction_withEvents tr s
    exact .inr ⟨u, fun es => by rw [handleEvent_running (s := s.withEvents es) hr]; exact hu es⟩

theorem run_one_event (e : Event) (s : State) : Sys2Proof.core.run 1 (s.withEvents (e :: s.events)) = handleEvent e s :=
  (run_one _).trans (step_withEvents_cons e s.events s)

/-- A transaction and the event that follows it, run as two steps. -/
theorem run_transaction_then (tr : Transaction) (e : Event) (s : State) :
    Sys2Proof.core.run 2 (s.withEvents (.transaction tr :: e :: s.events)) =
      andThen (handleEvent (.transaction tr) s) (handleEvent e) := by
  rw [run_succ, step_withEvents_cons]
  obtain hf | ⟨u, hu⟩ := handleEvent_transaction_withEvents tr s
  · have hs : handleEvent (.transaction tr) s = .fault .beforeFirstReset := hf s.events
    rw [hf, hs]
    rfl
  · have hs : handleEvent (.transaction tr) s = .next (u.withEvents s.events) := hu s.events
    rw [hu, hs]
    exact run_one_event e (u.withEvents s.events)

/-- Settles O40: a step takes the first of the edge's events; the transaction leaves the engine step to be taken next. -/
theorem clockEdgeIsAScheduleOfSteps : Obligations.ClockEdgeIsAScheduleOfSteps := by
  intro s req
  show Sys2Proof.core.run _ (s.withEvents _) = _
  cases req with
  | none => exact run_one_event .idleEdge s
  | some tr =>
    cases hb : s.busy with
    | false =>
      simp only [edgeEvents, clockEdge, hb, Bool.false_eq_true, if_false]
      exact run_one_event (.transaction tr) s
    | true =>
      simp only [edgeEvents, clockEdge, hb, if_true]
      exact run_transaction_then tr .engineStep s

/-! ### The host first, the engine second -/

/-- Out of reset an edge with a transaction in a BUSY window is the transaction, then the engine step. -/
theorem clockEdge_busy (hr : s.rst = .running) (hb : s.busy = true) (hx : exec (decodeTransaction tr) s = .next u)
    (hu : u.rst = .running) : clockEdge (some tr) s = .next u.engineNext := by
  simp only [clockEdge, hb, if_true]
  rw [handleEvent_running hr, runningEvent, hx]
  show handleEvent .engineStep u = _
  rw [handleEvent_running hu, runningEvent, exec_engineInstr_eq]

/-- What the completing step makes of the flags and the recorded command (40_command_model.md R106, R107). -/
structure Completed (s t : State) : Prop where
  busy : t.busy = false
  pending : t.done = true ∨ t.err = true
  lop : t.lop = s.lop
  lastop : t.lastop = s.lastop

/-- The last engine step of a running command completes it. -/
theorem engineNext_completed (h : s.EngineInv) (hb : s.busy = true) (hl : s.stepsLeft ≤ 1) : Completed s s.engineNext := by
  obtain ⟨r, hr⟩ := exists_finish_outcome h hb
  have hc : ¬(s.lop ≠ .illegal ∧ 1 < s.stepsLeft) := fun hc => absurd hc.2 (Nat.not_lt.mpr hl)
  rw [State.engineNext, if_pos hb, if_neg hc, completeStep_of_pending hr]
  cases r with
  | okRes v => exact ⟨rfl, .inl rfl, rfl, rfl⟩
  | okKey n phi e d => exact ⟨rfl, .inl rfl, rfl, rfl⟩
  | err code => exact ⟨rfl, .inr rfl, rfl, rfl⟩

theorem decodeTransaction_wrStatus (v : Word) : decodeTransaction ⟨true, 0x10, 8, v⟩ = .wrStatus v :=
  decodeTransaction_legal rfl (show (0x10 : BitVec 7).toNat % 8 = 0 by decide)

theorem decodeTransaction_wrCmd (w : Word) : decodeTransaction ⟨true, 0x18, 8, w⟩ = .wrCmd w :=
  decodeTransaction_legal rfl (show (0x18 : BitVec 7).toNat % 8 = 0 by decide)

/-- A read of STATUS shows BUSY at bit 0 (44_host_access.md R203). -/
theorem readval_status_busy (s : State) : (s.readval 0x10).getLsbD 0 = s.busy := by
  show s.statusWord.getLsbD 0 = s.busy
  rw [State.statusWord, BitVec.getLsbD_setWidth, BitVec.getLsbD_append]
  simp

/-- Settles O38: the transaction leaves the command running, sound and in its last step; the engine step then completes it and
keeps the response and OVR. -/
theorem hostGoesFirstInACycle : Obligations.HostGoesFirstInACycle := by
  intro s hs hr hb hl
  have hi := hs.engine
  refine ⟨fun a d ha => ?_, (readval_status_busy s).trans hb, fun v => ?_, fun w => ?_⟩
  · have hx := exec_read (tr := ⟨false, a, 8, d⟩) rfl rfl ha s
    have hc := engineNext_completed (s := s.respond (s.readval a) false) hi hb hl
    exact ⟨_, clockEdge_busy hr hb hx hr, (engineNext_frame _).rdata, hc.busy⟩
  · have hx : exec (decodeTransaction ⟨true, 0x10, 8, v⟩) s = .next ((s.w1c v).respond 0 false) := by
      rw [decodeTransaction_wrStatus]
      rfl
    have hc := engineNext_completed (s := (s.w1c v).respond 0 false) hi hb hl
    exact ⟨_, clockEdge_busy hr hb hx hr, hc.busy, hc.pending⟩
  · have hx : exec (decodeTransaction ⟨true, 0x18, 8, w⟩) s = .next (s.dropCommand.respond 0 false) := by
      rw [decodeTransaction_wrCmd, exec_wrCmd_busy hb]
    have hc := engineNext_completed (s := s.dropCommand.respond 0 false) hi hb hl
    exact ⟨_, clockEdge_busy hr hb hx hr, (engineNext_frame _).ovr, hc.busy, hc.pending, hc.lop, hc.lastop⟩

end Sys2Proof.Machine

/-! PROOFS. The decoder and the encoder (30_encoding.md R80-R86): each undoes the other, on command words and on transactions;
the words that name no command; and the instruction that the next step runs. -/

namespace Sys2Proof.Machine

variable {s : State} {w : Word} {addr : BitVec 7}

/-! ### Command words -/

theorem rsvdField_append (r : BitVec 60) (op : BitVec 4) : rsvdField (r ++ op) = r :=
  BitVec.extractLsb'_append_eq_left

theorem opField_append (r : BitVec 60) (op : BitVec 4) : opField (r ++ op) = op :=
  BitVec.extractLsb'_append_eq_right

/-- A command word is its two fields (R80). -/
theorem rsvdField_append_opField (w : Word) : rsvdField w ++ opField w = w :=
  BitVec.extractLsb'_append_extractLsb'

theorem decodeCommandWord_rsvd (h : rsvdField w ≠ 0) : decodeCommandWord w = .illegalRsvd (rsvdField w) (opField w) :=
  if_pos h

theorem decodeOp_rsvd (h : rsvdField w ≠ 0) : decodeOp w = .illegal := by
  rw [decodeOp, decodeCommandWord_rsvd h]
  rfl

theorem sixteen_le_of_rsvd (h : rsvdField w ≠ 0) : 16 ≤ w.toNat := by
  by_contra hw
  exact h (BitVec.eq_of_toNat_eq (by simp [rsvdField, Nat.shiftRight_eq_div_pow]; omega))

/-- A word with a zero reserved field is one of sixteen, each named by its opcode. -/
theorem exists_op_of_rsvdField_zero (h : rsvdField w = 0) : ∃ op : BitVec 4, w = (0 : BitVec 60) ++ op :=
  ⟨opField w, by rw [← h, rsvdField_append_opField]⟩

/-- No bit of a command word is dropped. -/
theorem encode_decodeCommandWord (w : Word) : encode (decodeCommandWord w) = .commandWord w := by
  by_cases h : rsvdField w = 0
  · obtain ⟨op, rfl⟩ := exists_op_of_rsvdField_zero h
    revert op
    decide
  · rw [decodeCommandWord_rsvd h, encode, rsvdField_append_opField]

theorem wellFormed_decodeCommandWord (w : Word) : (decodeCommandWord w).wellFormed = true := by
  by_cases h : rsvdField w = 0
  · obtain ⟨op, rfl⟩ := exists_op_of_rsvdField_zero h
    revert op
    decide
  · rw [decodeCommandWord_rsvd h]
    exact bne_iff_ne.mpr h

theorem decodeCommandWord_op8F {op : BitVec 4} (h : 8 ≤ op.toNat) :
    decodeCommandWord ((0 : BitVec 60) ++ op) = .illegalOp8F op := by
  revert op
  decide

/-- Settles O4: a word with a nonzero reserved field is at least 16 and illegal; of the sixteen others seven name a command. -/
theorem sevenWordsNameCommands : Obligations.SevenWordsNameCommands := by
  intro w
  by_cases h : rsvdField w = 0
  · obtain ⟨op, rfl⟩ := exists_op_of_rsvdField_zero h
    revert op
    decide
  · have h16 : 16 ≤ w.toNat := sixteen_le_of_rsvd h
    have hne : ∀ k : Word, k.toNat < 16 → w ≠ k := by
      rintro k hk rfl
      omega
    simp [decodeOp_rsvd h, hne, show 8 ≤ w.toNat by omega]

/-! ### Transactions -/

theorem toNat_of_reservedAddr (h : reservedAddr addr = true) : addr.toNat ∈ [0x60, 0x68, 0x70, 0x78] := by
  revert addr
  decide

/-- The aligned offsets from 0x60 on are the reserved ones (20_memory.md R65). -/
theorem reservedAddr_of_aligned (h8 : addr.toNat % 8 = 0) (h : 0x60 ≤ addr.toNat) : reservedAddr addr = true := by
  revert addr
  decide

theorem aligned_of_reservedAddr (h : reservedAddr addr = true) : addr.toNat % 8 = 0 := by
  revert addr
  decide

theorem decodeRead_reserved (h : reservedAddr addr = true) : decodeRead addr = .rdReserved addr := by
  revert addr
  decide

theorem decodeWrite_reserved (h : reservedAddr addr = true) (v : Word) : decodeWrite addr v = .wrReserved addr v := by
  have ha := toNat_of_reservedAddr h
  simp only [List.mem_cons, List.not_mem_nil, or_false] at ha
  obtain ha | ha | ha | ha := ha <;> simp [decodeWrite, ha]

theorem wellFormed_decodeRead (h8 : addr.toNat % 8 = 0) : (decodeRead addr).wellFormed = true := by
  revert addr
  decide

theorem wellFormed_decodeWrite (h8 : addr.toNat % 8 = 0) (v : Word) : (decodeWrite addr v).wellFormed = true := by
  unfold decodeWrite
  split
  case h_13 => exact reservedAddr_of_aligned h8 (by simp only [imp_false] at *; omega)
  all_goals rfl

/-- No bit of a write is dropped: its row gives the offset back, and the instruction holds the data. -/
theorem encode_decodeWrite (addr : BitVec 7) (v : Word) : encode (decodeWrite addr v) = writeAt addr v := by
  unfold decodeWrite
  split
  case h_13 => rfl
  all_goals
    next h =>
      rw [(BitVec.toNat_eq_nat.mp h).2]
      rfl

theorem decode_readAt (h8 : addr.toNat % 8 = 0) : decode (readAt addr) = decodeRead addr :=
  decodeTransaction_legal rfl h8

theorem decode_writeAt (h8 : addr.toNat % 8 = 0) (v : Word) : decode (writeAt addr v) = decodeWrite addr v :=
  decodeTransaction_legal rfl h8

/-- Settles O5: eight closed words, each decoded. -/
theorem knownEncodingsDecode : Obligations.KnownEncodingsDecode := by
  unfold Obligations.KnownEncodingsDecode
  decide

/-- Settles O2: each of the two kinds of encoded instruction is decoded to a well-formed one. -/
theorem decodedInstructionsAreWellFormed : Obligations.DecodedInstructionsAreWellFormed := by
  intro c
  cases c with
  | commandWord w => exact wellFormed_decodeCommandWord w
  | transaction tr =>
    show (decodeTransaction tr).wellFormed = true
    by_cases hm : tr.size ≠ 8 ∨ tr.addr.toNat % 8 ≠ 0
    · rw [decodeTransaction_malformed hm]
      simpa [Instr.wellFormed, ← alignedAddr_iff] using hm.symm
    · push Not at hm
      obtain ⟨hs, h8⟩ := hm
      rw [decodeTransaction_legal hs h8]
      split
      · exact wellFormed_decodeWrite h8 _
      · exact wellFormed_decodeRead h8

/-- Settles O3: a command word is its two fields, and a write's row and data give it back. -/
theorem encodeUndoesDecode : Obligations.EncodeUndoesDecode := by
  refine ⟨encode_decodeCommandWord, fun tr hw hs h8 => ?_⟩
  obtain ⟨we, addr, size, v⟩ := tr
  obtain ⟨rfl, rfl⟩ : we = true ∧ size = 8 := ⟨hw, hs⟩
  rw [decodeTransaction_legal rfl h8]
  exact encode_decodeWrite addr v

/-- Settles O1: the rows with a checked field by their own lemmas, every other row by its one word or offset. -/
theorem decodeUndoesEncode : Obligations.DecodeUndoesEncode := by
  intro i h
  cases i with
  | illegalOp8F op => exact decodeCommandWord_op8F (of_decide_eq_true h)
  | illegalRsvd r op =>
    have hr : rsvdField (r ++ op) ≠ 0 := by rw [rsvdField_append]; exact bne_iff_ne.mp h
    show decodeCommandWord (r ++ op) = _
    rw [decodeCommandWord_rsvd hr, rsvdField_append, opField_append]
  | rdReserved addr =>
    rw [encode, decode_readAt (aligned_of_reservedAddr h)]
    exact decodeRead_reserved h
  | wrReserved addr v =>
    rw [encode, decode_writeAt (aligned_of_reservedAddr h)]
    exact decodeWrite_reserved h v
  | busError we addr size => exact if_pos h
  | wrId v | wrCtrl v | wrStatus v | wrCmd v | wrOpa v | wrOpb v | wrOpm v | wrRes v | wrKeyN v | wrKeyPhi v | wrKeyE v
  | wrKeyD v => exact decode_writeAt (by decide) v
  | _ => rfl

/-! ### Illegal commands -/

/-- The completing step of an illegal command raises ILLEGAL_CMD (R85). -/
theorem engineFirstStep_illegal (hb : s.busy = true) (hl : s.lop = .illegal) (hi : s.EngineInv) :
    ∃ e, engineFirstStep microIllegal s = .next ({ s with eng := e, stepsLeft := 0 }.raiseError .illegalCmd) := by
  obtain ⟨e, n, he⟩ := hi hb
  rw [hl] at he
  have hp : (microFinish (microIllegal s.operands) s.eng).pending = some (.err .illegalCmd) := by
    rw [he]
    exact microFinish_pending (k := 1) Nat.one_le_two_pow rfl n
  exact ⟨_, by rw [engineFirstStep_busy _ hb, completeStep_of_pending hp]; rfl⟩

theorem engineInv_accept (w : Word) (s : State) : (s.accept w).EngineInv := fun _ => ⟨s.eng, 0, rfl⟩

/-- Settles O27: the three rows are one engine step; a word that is no command is accepted and leaves the engine at the start of
that step. -/
theorem illegalWordsRaiseIllegalCmd : Obligations.IllegalWordsRaiseIllegalCmd := by
  refine ⟨fun s op rsvd hb hl hi i hm => ?_, fun s w hb hw => ?_⟩
  · have hx : exec i s = engineFirstStep microIllegal s := by
      simp only [List.mem_cons, List.not_mem_nil, or_false] at hm
      obtain rfl | rfl | rfl := hm <;> rfl
    obtain ⟨e, he⟩ := engineFirstStep_illegal hb hl hi
    exact ⟨e, hx.trans he⟩
  · have hl : decodeOp w = .illegal := by
      obtain ⟨-, -, -, -, -, -, -, hn⟩ := sevenWordsNameCommands w
      exact hn.mpr hw
    obtain ⟨e, he⟩ := engineFirstStep_illegal (s := (s.accept w).respond 0 false) rfl hl (engineInv_accept w s)
    refine ⟨_, _, exec_wrCmd_idle hb w, rfl, (exec_engineInstr_illegal _ _ hl).trans he, ?_⟩
    rw [State.raiseError, State.respond, State.accept, hl]
    rfl

/-! ### The word presented to the next step -/

/-- The instruction of a command word runs the microsequence of the command it names. -/
theorem exec_decodeCommandWord (w : Word) (s : State) :
    exec (decodeCommandWord w) s =
      if decodeOp w = .illegal then engineFirstStep microIllegal s else engineStep (microOf (decodeOp w)) s := by
  unfold decodeOp decodeCommandWord
  split
  · rfl
  · split <;> rfl

/-- So does the engine's instruction, once the word has been latched. -/
theorem exec_engineInstr_of_latched (h : s.lop = decodeOp w) : exec s.engineInstr s = exec (decodeCommandWord w) s := by
  rw [exec_decodeCommandWord, ← h]
  split
  case isTrue hl => exact exec_engineInstr_illegal s s hl
  case isFalse hl => exact exec_engineInstr s s hl

theorem step_pushEvent (hr : s.rst = .running) (ev : Event) : step (s.pushEvent ev) = runningEvent ev s :=
  (step_cons (s := s.pushEvent ev) rfl).trans (handleEvent_running hr ev)

theorem step_present_transaction (tr : Transaction) (s : State) :
    step (s.present (.transaction tr)) = exec (decodeTransaction tr) { s with rst := .running } :=
  step_pushEvent (s := { s with rst := .running }) rfl _

/-- The state that has just accepted a command word, one engine step before its completion. -/
def State.atLastStep (s : State) (w : Word) : State := { s.accept w with rst := .running, stepsLeft := 1 }

theorem step_present_commandWord (w : Word) (s : State) :
    step (s.present (.commandWord w)) = exec (decodeCommandWord w) (s.atLastStep w) :=
  (step_pushEvent (s := s.atLastStep w) rfl .engineStep).trans (exec_engineInstr_of_latched rfl)

/-- Settles O45: the table word is one of the two kinds of encoded instruction, each of which the next step runs. -/
theorem stepRunsTheFetchWord : Obligations.StepRunsTheFetchWord := by
  intro s nbits n i hi
  obtain ⟨c, hc, rfl⟩ := Option.map_eq_some_iff.mp hi
  rw [State.withFetchWord, hc]
  cases c with
  | transaction tr => exact ⟨_, step_present_transaction tr s, .inl ⟨tr, rfl, rfl⟩⟩
  | commandWord w =>
    exact ⟨_, step_present_commandWord w s, .inr ⟨w, rfl, rfl, rfl, rfl, rfl, rfl, rfl, engineInv_accept w s⟩⟩

end Sys2Proof.Machine

/-! PROOFS. The command model (40_command_model.md): a command request, the engine step, the BUSY window, and the instruction
that a step runs. -/

namespace Sys2Proof.Machine

variable {s t : State} {i : Instr}

/-! ### A command request -/

/-- Settles O14: a dropped request is answered and sets OVR. -/
theorem commandWhileBusyIsDropped : Obligations.CommandWhileBusyIsDropped := fun _ w hb => exec_wrCmd_busy hb w

/-- Settles O15: the accepted command's engine is at its start, with the drawn latency, 1 for an illegal word, before it. -/
theorem commandWhileIdleIsAccepted : Obligations.CommandWhileIdleIsAccepted := by
  intro s w hb
  refine ⟨_, exec_wrCmd_idle hb w, rfl, engineInv_accept w s, latencyOf_pos _ _ _ _, fun hl => ?_⟩
  rw [State.respond_stepsLeft, State.accept_stepsLeft, hl]
  rfl

/-! ### The engine step -/

/-- Settles O18: each command row is an engine step, of a command or of an illegal word. -/
theorem idleEngineStepChangesNothing : Obligations.IdleEngineStepChangesNothing := by
  intro s op rsvd hb i hi
  obtain hi | hi := (List.mem_append (s := [Instr.gcd, .modinv, .modmul, .modexp, .keygen, .encrypt, .decrypt])).mp hi
  · have hx : ∃ f, exec i s = engineStep f s := by
      simp only [List.mem_cons, List.not_mem_nil, or_false] at hi
      obtain rfl | rfl | rfl | rfl | rfl | rfl | rfl := hi <;> exact ⟨_, rfl⟩
    obtain ⟨f, hf⟩ := hx
    exact hf.trans (engineStep_idle f hb)
  · have hx : exec i s = engineFirstStep microIllegal s := by
      simp only [List.mem_cons, List.not_mem_nil, or_false] at hi
      obtain rfl | rfl | rfl := hi <;> rfl
    exact hx.trans (engineFirstStep_idle _ hb)

/-- Before its last engine step a command other than an illegal one continues (40_command_model.md R105). -/
theorem engineNext_continues (hb : s.busy = true) (hl : s.lop ≠ .illegal) (h1 : 1 < s.stepsLeft) :
    s.engineNext = s.continueStep (microOf s.lop) := by
  rw [State.engineNext, if_pos hb, if_pos ⟨hl, h1⟩]

/-- The last engine step of a running command publishes an outcome of the command (R106, R107). -/
theorem engineNext_publishes (h : s.EngineInv) (hb : s.busy = true) (h1 : s.stepsLeft ≤ 1) :
    ∃ r e, OutcomeAllowed s.lop s.operands r ∧ s.engineNext = { s with eng := e, stepsLeft := 0 }.publish r := by
  obtain ⟨r, hr⟩ := exists_finish_outcome h hb
  have hc : ¬(s.lop ≠ .illegal ∧ 1 < s.stepsLeft) := fun hc => absurd hc.2 (Nat.not_lt.mpr h1)
  exact ⟨r, _, finish_outcome h hb hr, by rw [State.engineNext, if_pos hb, if_neg hc, completeStep_of_pending hr]⟩

/-- An illegal command has no continuing step (R105). -/
theorem lop_ne_illegal_of_steps (h : s.StatusInv) (hb : s.busy = true) (h1 : 1 < s.stepsLeft) : s.lop ≠ .illegal :=
  fun hl => absurd (h.illegalFirst hb hl) (Nat.ne_of_gt h1)

/-- Settles O19: the continuing step moves the engine, the count and the draw alone. -/
theorem continuingStepIsInvisible : Obligations.ContinuingStepIsInvisible := by
  intro s c hc h
  exact ⟨_, (exec_engineInstr_eq s).trans
    (congrArg Host.Outcome.next (engineNext_continues h.busy (h.command ▸ hc) h.notLast))⟩

/-- Settles O28: before its last step the command continues; its last one publishes its outcome, and a key is KEYGEN's alone. -/
theorem engineStepPublishesOneOutcome : Obligations.EngineStepPublishesOneOutcome := by
  intro s hs hb
  refine ⟨s.engineNext, exec_engineInstr_eq s, ?_⟩
  by_cases h1 : 1 < s.stepsLeft
  · rw [engineNext_continues hb (lop_ne_illegal_of_steps hs.status hb h1) h1]
    exact .inl ⟨h1, rfl⟩
  · have h1' : s.stepsLeft ≤ 1 := Nat.not_lt.mp h1
    obtain ⟨r, e, hr, he⟩ := engineNext_publishes hs.engine hb h1'
    rw [he]
    cases r with
    | okRes v => exact .inr (.inl ⟨h1', hr.1, rfl⟩)
    | okKey n phi e d => exact .inr (.inr (.inl ⟨h1', hr.1, rfl⟩))
    | err code => exact .inr (.inr (.inr ⟨h1', code, rfl⟩))

/-- What an engine step keeps of the command it runs, the reset phase and the schedule. -/
structure CommandKept (s t : State) : Prop where
  lop : t.lop = s.lop
  lastop : t.lastop = s.lastop
  la : t.la = s.la
  lb : t.lb = s.lb
  lm : t.lm = s.lm
  rst : t.rst = s.rst
  events : t.events = s.events

theorem engineEffect_commandKept (h : EngineEffect s t) : CommandKept s t := by
  cases h with
  | published hb r ho => cases r <;> exact ⟨rfl, rfl, rfl, rfl, rfl, rfl, rfl⟩
  | _ => exact ⟨rfl, rfl, rfl, rfl, rfl, rfl, rfl⟩

theorem engineNext_commandKept (s : State) : CommandKept s s.engineNext := engineEffect_commandKept (engineNext_effect s)

/-- Settles O39: the second request is dropped before the engine step of its edge, which keeps OVR and the command. -/
theorem commandRightAfterAcceptanceIsDropped : Obligations.CommandRightAfterAcceptanceIsDropped := by
  intro s w w' hr hb
  have hfirst : clockEdge (some ⟨true, 0x18, 8, w⟩) s = .next ((s.accept w).respond 0 false) := by
    simp only [clockEdge, hb, Bool.false_eq_true, if_false]
    rw [handleEvent_running hr, runningEvent, decodeTransaction_wrCmd, exec_wrCmd_idle hb]
  have hdropped : exec (decodeTransaction ⟨true, 0x18, 8, w'⟩) ((s.accept w).respond 0 false) =
      .next (((s.accept w).respond 0 false).dropCommand.respond 0 false) := by
    rw [decodeTransaction_wrCmd, exec_wrCmd_busy rfl]
  obtain ⟨hlop, hlastop, hla, hlb, hlm, -, -⟩ :=
    engineNext_commandKept (((s.accept w).respond 0 false).dropCommand.respond 0 false)
  exact ⟨_, _, hfirst, rfl, rfl, clockEdge_busy hr rfl hdropped hr, (engineNext_frame _).ovr, hlop, hlastop, hla, hlb, hlm⟩

/-! ### The BUSY window -/

/-- An event at which the engine takes a step. -/
def Event.isEngine (e : Event) : Bool := e == .engineStep || e == .idleEdge

/-- A running command in a sound state out of reset, with so many engine steps left. -/
structure State.Window (s : State) (n : Nat) : Prop where
  inv : s.Inv
  running : s.rst = .running
  busy : s.busy = true
  steps : s.stepsLeft ≤ n

theorem inv_eventEffect {ev : Event} (h : s.Inv) (he : EventEffect s ev t) : t.Inv :=
  ⟨statusInv_eventEffect h.status he, keyInv_eventEffect h he, engineInv_eventEffect h.engine he⟩

theorem inv_withEvents (h : s.Inv) (hr : s.rst = .running) (es : List Event) : (s.withEvents es).Inv :=
  ⟨{ h.status with inReset := fun hn => absurd hr hn }, h.key, h.engine⟩

/-- What a host transaction keeps in a BUSY window. -/
structure WindowKept (s t : State) : Prop where
  busy : t.busy = s.busy
  steps : t.stepsLeft = s.stepsLeft
  events : t.events = s.events

theorem hostEffect_windowKept (hb : s.busy = true) (i : Instr) : WindowKept s (hostEffect i s) := by
  cases i with
  | wrCmd w =>
    rw [hostEffect, requestCommand_busy hb]
    exact ⟨rfl, rfl, rfl⟩
  | _ => exact ⟨rfl, rfl, rfl⟩

/-- A transaction does not end the window and leaves its engine steps to come. -/
theorem window_transaction {n : Nat} (h : s.Window n) (tr : Transaction) :
    ∃ t, handleEvent (.transaction tr) s = .next t ∧ t.Window n ∧ t.events = s.events := by
  obtain ⟨v, b, hv, hx⟩ := exec_decodeTransaction_eq tr s
  have hk := hostEffect_windowKept h.busy (decodeTransaction tr)
  have hf := hostEffect_frame (decodeTransaction tr) s
  have he := EventEffect.transaction h.running tr v b hv
  exact ⟨_, (handleEvent_running h.running _).trans hx,
    ⟨inv_eventEffect h.inv he, hf.rst.trans h.running, hk.busy.trans h.busy, hk.steps.trans_le h.steps⟩, hk.events⟩

/-- An engine step ends the window, or takes one of its engine steps. -/
theorem window_engineNext {n : Nat} (h : s.Window (n + 1)) : s.engineNext.busy = false ∨ s.engineNext.Window n := by
  by_cases h1 : 1 < s.stepsLeft
  · have hn := engineNext_continues h.busy (lop_ne_illegal_of_steps h.inv.status h.busy h1) h1
    refine .inr ⟨inv_eventEffect h.inv (.engineStep h.running), ?_, ?_, ?_⟩
    · exact (engineNext_commandKept s).rst.trans h.running
    · rw [hn]; exact h.busy
    · rw [hn]; exact Nat.sub_le_of_le_add h.steps
  · exact .inl (engineNext_completed h.inv.engine h.busy (Nat.not_lt.mp h1)).busy

/-- An edge without a request takes the same engine step, the response taken away. -/
theorem window_noResponse {n : Nat} (h : s.Window n) : s.noResponse.Window n :=
  ⟨⟨statusInv_noResponse h.inv.status h.running, h.inv.key, h.inv.engine⟩, h.running, h.busy, h.steps⟩

/-- So does each event at which the engine takes a step. -/
theorem window_engineEvent {n : Nat} {e : Event} (h : s.Window (n + 1)) (he : e.isEngine = true) :
    ∃ t, handleEvent e s = .next t ∧ (t.busy = false ∨ t.Window n) ∧ t.events = s.events := by
  rw [handleEvent_running h.running]
  obtain rfl | rfl : e = .engineStep ∨ e = .idleEdge := by simpa [Event.isEngine] using he
  · exact ⟨_, exec_engineInstr_eq s, window_engineNext h, (engineNext_commandKept s).events⟩
  · exact ⟨_, exec_engineInstr_eq s.noResponse, window_engineNext (window_noResponse h),
      (engineNext_commandKept s.noResponse).events⟩

/-- The next event of a schedule without reset ends the window or leaves it with the later events' engine steps to take. -/
theorem window_event {e : Event} {es : List Event} (h : s.Window ((e :: es).filter Event.isEngine).length)
    (he : e ≠ .resetAssert ∧ e ≠ .resetRelease) :
    ∃ t, handleEvent e s = .next t ∧ (t.busy = false ∨ t.Window (es.filter Event.isEngine).length) ∧ t.events = s.events := by
  cases e with
  | transaction tr =>
    obtain ⟨t, hx, ht, hev⟩ := window_transaction (n := (es.filter Event.isEngine).length) h tr
    exact ⟨t, hx, .inr ht, hev⟩
  | engineStep => exact window_engineEvent h rfl
  | idleEdge => exact window_engineEvent h rfl
  | resetAssert => exact absurd rfl he.1
  | resetRelease => exact absurd rfl he.2

/-- The window has ended by the time its engine steps have been taken. -/
theorem window_ends (es : List Event) (hes : ∀ e ∈ es, e ≠ .resetAssert ∧ e ≠ .resetRelease)
    (h : s.Window (es.filter Event.isEngine).length) (hs : s.events = es) :
    ∃ k t, k ≤ es.length ∧ Sys2Proof.core.run k s = .next t ∧ State.busy t = false := by
  induction es generalizing s with
  | nil => exact absurd ((h.inv.status.busySteps h.busy).trans h.steps) (by simp)
  | cons e es ih =>
    have h' : (s.withEvents es).Window ((e :: es).filter Event.isEngine).length :=
      ⟨inv_withEvents h.inv h.running es, h.running, h.busy, h.steps⟩
    obtain ⟨t, hx, ht, hev⟩ := window_event h' (hes e List.mem_cons_self)
    have hstep : step s = .next t := (step_cons hs).trans hx
    obtain hb | hw := ht
    · exact ⟨1, t, Nat.le_add_left 1 _, (run_one s).trans hstep, hb⟩
    · obtain ⟨k, u, hk, hrun, hu⟩ := ih (fun e' he' => hes e' (List.mem_cons_of_mem e he')) hw hev
      exact ⟨k + 1, u, Nat.succ_le_succ hk, by rw [run_succ, hstep]; exact hrun, hu⟩

/-- Settles O42: each engine step takes one of the window's, or ends it; no transaction adds any. -/
theorem busyWindowEnds : Obligations.BusyWindowEnds := fun _ es hs hr hb hes hn =>
  window_ends es hes ⟨inv_withEvents hs hr es, hr, hb, hn⟩ rfl

/-! ### The instruction a step runs -/

/-- Settles O43: out of reset a transaction event runs the instruction it decodes to. -/
theorem stepRunsTheDecodedTransaction : Obligations.StepRunsTheDecodedTransaction :=
  fun s _ es hr he => (step_cons he).trans (handleEvent_running (s := { s with events := es }) hr _)

/-- The engine's instruction names the latched command, whichever illegal row stands for an illegal one (R44). -/
theorem commandOf_engineInstr (s : State) : commandOf s.engineInstr = s.lop := by
  unfold State.engineInstr
  cases s.lop with
  | illegal => dsimp only; split_ifs <;> rfl
  | _ => rfl

/-- Settles O44: the engine's instruction sees neither the response nor the events to come. -/
theorem stepRunsTheLatchedCommand : Obligations.StepRunsTheLatchedCommand := by
  intro s hr
  refine ⟨commandOf_engineInstr s, fun es he => ?_, fun es he => ?_, fun he => ?_⟩
  · exact (step_cons he).trans (handleEvent_running (s := { s with events := es }) hr _)
  · exact (step_cons he).trans (handleEvent_running (s := { s with events := es }) hr _)
  · rw [step_nil he, ← he]
    exact handleEvent_running hr _

end Sys2Proof.Machine

/-! PROOFS. The outcome of a command does not depend on what the working registers held (40_command_model.md R103): two runs from
acceptance agree on every register that is read from there on. -/

namespace Sys2Proof.Machine

variable {c : Command} {o : Operands} {e e' : Engine}

/-! ### Two runs side by side -/

/-- Two engines that have found the same outcome, or none and are related by `R`. -/
structure Tracks (R : Engine → Engine → Prop) (e e' : Engine) : Prop where
  pending : e.pending = e'.pending
  related : e.pending = none → R e e'

/-- What is related stays so under each microstep, so two runs find the same outcome. -/
theorem microRun_tracks {f : Engine → Engine} {R : Engine → Engine → Prop}
    (hf : ∀ e e', e.pending = none → e'.pending = none → R e e' → Tracks R (f e) (f e')) (n : Nat) (h : Tracks R e e') :
    (microRun f n e).pending = (microRun f n e').pending := by
  induction n generalizing e e' with
  | zero => exact h.pending
  | succ n ih =>
    cases hp : e.pending with
    | some r =>
      have hp' : e'.pending = some r := h.pending.symm.trans hp
      rw [microRun_done (by simp [hp]), microRun_done (by simp [hp']), h.pending]
    | none =>
      have hp' : e'.pending = none := h.pending.symm.trans hp
      rw [microRun_succ_of_none hp, microRun_succ_of_none hp']
      exact ih (hf e e' hp hp' (h.related hp))

/-! ### The units -/

/-- Two engines in the same place of a unit's microsequence: in its loop they agree on the registers of `R`. -/
structure UnitSame (R : Engine → Engine → Prop) (e e' : Engine) : Prop where
  unit : e.unit = e'.unit
  regs : e.unit = .loop → R e e'

/-- Two answers of a unit: the same, from engines in the same place. -/
structure AnswerSame (R : Engine → Engine → Prop) (r r' : Engine × UnitResult) : Prop where
  answer : r.2 = r'.2
  place : UnitSame R r.1 r'.1

/-- The registers that `gcd_unit` reads in its loop (41_number_theory.md R122). -/
structure GcdSame (e e' : Engine) : Prop where
  ga : e.ga = e'.ga
  gb : e.gb = e'.gb

theorem gcdStep_same (a b : Word) (h : UnitSame GcdSame e e') : AnswerSame GcdSame (gcdStep a b e) (gcdStep a b e') := by
  unfold gcdStep
  rw [← h.unit]
  cases hu : e.unit with
  | load => exact ⟨rfl, rfl, fun _ => ⟨rfl, rfl⟩⟩
  | loop =>
    obtain ⟨hga, hgb⟩ := h.regs hu
    dsimp only
    rw [← hgb]
    split
    · exact ⟨by rw [hga], h⟩
    · exact ⟨rfl, h.unit, fun _ => ⟨hgb, by simp [gcdIter, divUnit, hga, hgb]⟩⟩

/-- The registers that `modinv_engine` reads in its loop (R129). -/
structure ModinvSame (e e' : Engine) : Prop where
  r0 : e.r0 = e'.r0
  r1 : e.r1 = e'.r1
  t0 : e.t0 = e'.t0
  t1 : e.t1 = e'.t1

theorem modinvIter_same (h : ModinvSame e e') : ModinvSame (modinvIter e) (modinvIter e') := by
  obtain ⟨hr0, hr1, ht0, ht1⟩ := h
  exact ⟨hr1, by simp [modinvIter, divUnit, hr0, hr1], ht1, by simp [modinvIter, divUnit, hr0, hr1, ht0, ht1]⟩

theorem modinvNormalise_same (m : Word) (h : ModinvSame e e') :
    ModinvSame (modinvNormalise m e) (modinvNormalise m e') := by
  unfold modinvNormalise
  rw [← h.t0]
  split
  · exact ⟨h.r0, h.r1, rfl, h.t1⟩
  · exact h

theorem modinvNormalise_unit (m : Word) (e : Engine) : (modinvNormalise m e).unit = e.unit := by
  unfold modinvNormalise
  split <;> rfl

theorem modinvStep_same (a m : Word) (h : UnitSame ModinvSame e e') :
    AnswerSame ModinvSame (modinvStep a m e) (modinvStep a m e') := by
  unfold modinvStep
  rw [← h.unit]
  cases hu : e.unit with
  | load =>
    dsimp only
    split
    · exact ⟨rfl, h⟩
    · exact ⟨rfl, rfl, fun _ => ⟨rfl, rfl, rfl, rfl⟩⟩
  | loop =>
    have hs := h.regs hu
    dsimp only
    rw [← hs.r0, ← hs.r1]
    split_ifs
    · exact ⟨rfl, h.unit, fun _ => modinvIter_same hs⟩
    · exact ⟨rfl, h⟩
    · have hn := modinvNormalise_same m hs
      exact ⟨by rw [hn.t0], by rw [modinvNormalise_unit, modinvNormalise_unit, h.unit], fun _ => hn⟩

/-- The constants of `barrett_reduce` (R139). -/
structure BarrettSame (e e' : Engine) : Prop where
  mu : e.mu = e'.mu
  k : e.k = e'.k

theorem barrettReduce_same (m : Word) (x : DWord) (h : BarrettSame e e') : barrettReduce e m x = barrettReduce e' m x := by
  rw [barrettReduce, barrettReduce, h.mu, h.k]

/-- The registers that `modexp_engine` reads in its loop (R149). -/
structure ModexpSame (e e' : Engine) : Prop extends BarrettSame e e' where
  acc : e.acc = e'.acc
  base : e.base = e'.base
  exp : e.exp = e'.exp

theorem modexpMultiply_same (m : Word) (h : ModexpSame e e') : ModexpSame (modexpMultiply m e) (modexpMultiply m e') := by
  unfold modexpMultiply
  rw [← h.acc, ← h.base, ← h.exp]
  split
  · exact ⟨⟨h.mu, h.k⟩, barrettReduce_same m _ h.toBarrettSame, rfl, rfl⟩
  · exact h

theorem modexpIter_same (m : Word) (h : ModexpSame e e') : ModexpSame (modexpIter m e) (modexpIter m e') := by
  have hm := modexpMultiply_same m h
  unfold modexpIter modexpSquare
  rw [← hm.base, ← hm.exp]
  exact ⟨⟨hm.mu, hm.k⟩, hm.acc, barrettReduce_same m _ hm.toBarrettSame, rfl⟩

theorem modexpIter_unit (m : Word) (e : Engine) : (modexpIter m e).unit = e.unit := by
  unfold modexpIter modexpSquare modexpMultiply
  split <;> rfl

theorem modexpStep_same (b ex m : Word) (h : UnitSame ModexpSame e e') :
    AnswerSame ModexpSame (modexpStep b ex m e) (modexpStep b ex m e') := by
  unfold modexpStep
  rw [← h.unit]
  cases hu : e.unit with
  | load => exact ⟨rfl, rfl, fun _ => ⟨⟨rfl, rfl⟩, rfl, rfl, rfl⟩⟩
  | loop =>
    have hs := h.regs hu
    dsimp only
    rw [← hs.exp]
    split
    · exact ⟨by rw [hs.acc], h⟩
    · exact ⟨rfl, by rw [modexpIter_unit, modexpIter_unit, h.unit], fun _ => modexpIter_same m hs⟩

/-! ### The commands other than KEYGEN -/

/-- The registers that MODMUL reads after its load (R140). -/
structure ModmulSame (e e' : Engine) : Prop extends BarrettSame e e' where
  x : e.x = e'.x

/-- Agreement on the registers that a command other than KEYGEN reads once they are loaded. -/
def LoopSame : Command → Engine → Engine → Prop
  | .gcd => GcdSame
  | .modinv => ModinvSame
  | .modmul => ModmulSame
  | .modexp | .encrypt | .decrypt => ModexpSame
  | .keygen | .illegal => fun _ _ => True

theorem error_tracks (R : Engine → Engine → Prop) (code : ErrCode) :
    Tracks R { e with pending := some (.err code) } { e' with pending := some (.err code) } :=
  ⟨rfl, nofun⟩

/-- The same answer of a unit settles two engines alike. -/
theorem settle_tracks {R : Engine → Engine → Prop} {r r' : Engine × UnitResult} (h : AnswerSame R r r')
    (hp : r.1.pending = r'.1.pending) : Tracks (UnitSame R) (settle r) (settle r') := by
  obtain ⟨e, u⟩ := r
  obtain ⟨e', u'⟩ := r'
  obtain ⟨rfl, hs⟩ := h
  cases u with
  | running => exact ⟨hp, fun _ => hs⟩
  | ok v => exact ⟨rfl, nofun⟩
  | fail => exact ⟨rfl, nofun⟩

section microsteps

variable (hp : e.pending = e'.pending)
include hp

theorem microGcd_tracks (o : Operands) (h : UnitSame GcdSame e e') :
    Tracks (UnitSame GcdSame) (microGcd o e) (microGcd o e') :=
  settle_tracks (gcdStep_same o.a o.b h)
    ((gcdStep_frame _ _ e).pending.trans (hp.trans (gcdStep_frame _ _ e').pending.symm))

theorem microModinv_tracks (o : Operands) (h : UnitSame ModinvSame e e') :
    Tracks (UnitSame ModinvSame) (microModinv o e) (microModinv o e') := by
  unfold microModinv
  split
  · exact error_tracks _ _
  · exact settle_tracks (modinvStep_same o.a o.m h)
      ((modinvStep_frame _ _ e).pending.trans (hp.trans (modinvStep_frame _ _ e').pending.symm))

theorem microModmul_tracks (o : Operands) (h : UnitSame ModmulSame e e') :
    Tracks (UnitSame ModmulSame) (microModmul o e) (microModmul o e') := by
  unfold microModmul
  split
  · exact error_tracks _ _
  · rw [← h.unit]
    cases hu : e.unit with
    | load => exact ⟨hp, fun _ => ⟨rfl, fun _ => ⟨⟨rfl, rfl⟩, rfl⟩⟩⟩
    | loop =>
      have hs := h.regs hu
      exact ⟨by rw [hs.x, barrettReduce_same o.m _ hs.toBarrettSame], nofun⟩

theorem settle_modexpStep_tracks (b ex m : Word) (h : UnitSame ModexpSame e e') :
    Tracks (UnitSame ModexpSame) (settle (modexpStep b ex m e)) (settle (modexpStep b ex m e')) :=
  settle_tracks (modexpStep_same b ex m h)
    ((modexpStep_frame _ _ _ e).pending.trans (hp.trans (modexpStep_frame _ _ _ e').pending.symm))

theorem microModexp_tracks (o : Operands) (h : UnitSame ModexpSame e e') :
    Tracks (UnitSame ModexpSame) (microModexp o e) (microModexp o e') := by
  unfold microModexp
  split
  · exact error_tracks _ _
  · exact settle_modexpStep_tracks hp _ _ _ h

theorem cipherMicro_tracks (ex : Word) (o : Operands) (h : UnitSame ModexpSame e e') :
    Tracks (UnitSame ModexpSame) (cipherMicro ex o e) (cipherMicro ex o e') := by
  unfold cipherMicro
  split
  · exact error_tracks _ _
  · exact settle_modexpStep_tracks hp _ _ _ h

theorem microOf_tracks (hc : c ≠ .keygen) (o : Operands) (h : UnitSame (LoopSame c) e e') :
    Tracks (UnitSame (LoopSame c)) (microOf c o e) (microOf c o e') := by
  cases c with
  | gcd => exact microGcd_tracks hp o h
  | modinv => exact microModinv_tracks hp o h
  | modmul => exact microModmul_tracks hp o h
  | modexp => exact microModexp_tracks hp o h
  | keygen => exact absurd rfl hc
  | encrypt => exact cipherMicro_tracks hp o.keyE o h
  | decrypt => exact cipherMicro_tracks hp o.keyD o h
  | illegal => exact error_tracks _ _

end microsteps

/-! ### KEYGEN -/

/-- The staged key without its inverse (42_key_derivation.md R164, R165). -/
structure ExponentSame (e e' : Engine) : Prop where
  kn : e.kn = e'.kn
  kphi : e.kphi = e'.kphi
  ke : e.ke = e'.ke

theorem exponentSame_of_frame {u u' : Engine} (h : ExponentSame e e') (hf : UnitFrame e u) (hf' : UnitFrame e' u') :
    ExponentSame u u' :=
  ⟨hf.kn.trans (h.kn.trans hf'.kn.symm), hf.kphi.trans (h.kphi.trans hf'.kphi.symm), hf.ke.trans (h.ke.trans hf'.ke.symm)⟩

/-- Two engines in the same state of `key_derivation_fsm` (R172) that agree on what is read from there on, but for what
`KeygenAt` says they hold: the gcd in `K_ETEST` and the inverse in `K_COMMIT`. -/
inductive KeygenSame (e e' : Engine) : Prop where
  | check (hk : e.kfsm = .kCheck) (hk' : e'.kfsm = .kCheck)
  | mul (hk : e.kfsm = .kMul) (hk' : e'.kfsm = .kMul)
  | einit (hk : e.kfsm = .kEinit) (hk' : e'.kfsm = .kEinit) (hn : e.kn = e'.kn) (hphi : e.kphi = e'.kphi)
  | egcd (hk : e.kfsm = .kEgcd) (hk' : e'.kfsm = .kEgcd) (hs : ExponentSame e e') (hu : UnitSame GcdSame e e')
  | etest (hk : e.kfsm = .kEtest) (hk' : e'.kfsm = .kEtest) (hs : ExponentSame e e')
  | dinv (hk : e.kfsm = .kDinv) (hk' : e'.kfsm = .kDinv) (hs : ExponentSame e e') (hu : UnitSame ModinvSame e e')
  | commit (hk : e.kfsm = .kCommit) (hk' : e'.kfsm = .kCommit) (hs : ExponentSame e e')
  | failed (code : ErrCode) (hk : e.kfsm = .kErr code) (hk' : e'.kfsm = .kErr code)

theorem keygenCheck_same (p q : Word) (kv : Bool) (e e' : Engine) :
    KeygenSame (keygenCheck p q kv e) (keygenCheck p q kv e') := by
  unfold keygenCheck
  split_ifs
  · exact .failed _ rfl rfl
  · exact .failed _ rfl rfl
  · exact .mul rfl rfl

theorem keygenMul_same (p q : Word) (e e' : Engine) : KeygenSame (keygenMul p q e) (keygenMul p q e') := by
  unfold keygenMul
  dsimp only
  split
  · exact .failed _ rfl rfl
  · exact .einit rfl rfl rfl rfl

theorem keygenEgcd_same (hk : e.kfsm = .kEgcd) (hk' : e'.kfsm = .kEgcd) (hs : ExponentSame e e')
    (hu : UnitSame GcdSame e e') : KeygenSame (keygenEgcd e) (keygenEgcd e') := by
  have hf := gcdStep_frame e.ke e.kphi e
  have hf' := gcdStep_frame e.ke e.kphi e'
  have ha := gcdStep_same e.ke e.kphi hu
  unfold keygenEgcd
  rw [← hs.ke, ← hs.kphi]
  generalize gcdStep e.ke e.kphi e = r at *
  generalize gcdStep e.ke e.kphi e' = r' at *
  obtain ⟨u, a⟩ := r
  obtain ⟨u', a'⟩ := r'
  obtain ⟨rfl, hp⟩ := ha
  obtain ⟨hn, hphi, hke⟩ := exponentSame_of_frame hs hf hf'
  cases a with
  | running => exact .egcd (hf.kfsm.trans hk) (hf'.kfsm.trans hk') ⟨hn, hphi, hke⟩ hp
  | ok v => exact .etest rfl rfl ⟨hn, hphi, hke⟩
  | fail => exact .etest rfl rfl ⟨hn, hphi, hke⟩

theorem keygenEtest_same (hs : ExponentSame e e') (hga : e.ga = e'.ga) :
    KeygenSame (keygenEtest e) (keygenEtest e') := by
  obtain ⟨hn, hphi, hke⟩ := hs
  unfold keygenEtest
  dsimp only
  rw [← hga, ← hke]
  split_ifs
  · exact .dinv rfl rfl ⟨hn, hphi, rfl⟩ ⟨rfl, nofun⟩
  · exact .failed _ rfl rfl
  · exact .egcd rfl rfl ⟨hn, hphi, rfl⟩ ⟨rfl, nofun⟩

theorem keygenDinv_same (hk : e.kfsm = .kDinv) (hk' : e'.kfsm = .kDinv) (hs : ExponentSame e e')
    (hu : UnitSame ModinvSame e e') : KeygenSame (keygenDinv e) (keygenDinv e') := by
  have hf := modinvStep_frame e.ke e.kphi e
  have hf' := modinvStep_frame e.ke e.kphi e'
  have ha := modinvStep_same e.ke e.kphi hu
  unfold keygenDinv
  rw [← hs.ke, ← hs.kphi]
  generalize modinvStep e.ke e.kphi e = r at *
  generalize modinvStep e.ke e.kphi e' = r' at *
  obtain ⟨u, a⟩ := r
  obtain ⟨u', a'⟩ := r'
  obtain ⟨rfl, hp⟩ := ha
  obtain ⟨hn, hphi, hke⟩ := exponentSame_of_frame hs hf hf'
  cases a with
  | running => exact .dinv (hf.kfsm.trans hk) (hf'.kfsm.trans hk') ⟨hn, hphi, hke⟩ hp
  | ok d => exact .commit rfl rfl ⟨hn, hphi, hke⟩
  | fail => exact .commit rfl rfl ⟨hn, hphi, hke⟩

theorem keygenAt_etest (h : KeygenAt o e) (hk : e.kfsm = .kEtest) : e.ga.toNat = Nat.gcd e.ke.toNat e.kphi.toNat := by
  cases h with
  | etest _ _ _ hg => exact hg
  | _ => simp_all

theorem keygenAt_commit (h : KeygenAt o e) (hk : e.kfsm = .kCommit) :
    KeyPair o.a.toNat o.b.toNat e.kn.toNat e.kphi.toNat e.ke.toNat e.kd.toNat := by
  cases h with
  | commit _ _ hp => exact hp
  | _ => simp_all

/-- The inverse of an exponent is unique below the totient (R167). -/
theorem keyPair_inverse_unique {p q p' q' n n' phi ex d d' : Nat} (h : KeyPair p q n phi ex d)
    (h' : KeyPair p' q' n' phi ex d') : d = d' := by
  obtain ⟨-, hlt, hi⟩ := h.inverse
  obtain ⟨-, hlt', hi'⟩ := h'.inverse
  have hc : Nat.gcd phi ex = 1 := (Nat.gcd_comm phi ex).trans h.exponent.2.2
  have hm : ex * d ≡ ex * d' [MOD phi] := hi.trans hi'.symm
  exact (Nat.ModEq.cancel_left_of_coprime hc hm).eq_of_lt_of_lt hlt hlt'

/-- Two engines side by side in the key derivation of the operands `o`. -/
structure KeygenTwins (o : Operands) (e e' : Engine) : Prop where
  same : KeygenSame e e'
  left : KeygenAt o e
  right : KeygenAt o e'

theorem microKeygen_same (h : KeygenTwins o e e') : KeygenSame (microKeygen o e) (microKeygen o e') := by
  unfold microKeygen
  cases h.same with
  | check hk hk' => rw [hk, hk']; exact keygenCheck_same _ _ _ e e'
  | mul hk hk' => rw [hk, hk']; exact keygenMul_same _ _ e e'
  | einit hk hk' hn hphi => rw [hk, hk']; exact .egcd rfl rfl ⟨hn, hphi, rfl⟩ ⟨rfl, nofun⟩
  | egcd hk hk' hs hu => rw [hk, hk']; exact keygenEgcd_same hk hk' hs hu
  | etest hk hk' hs =>
    have hga := keygenAt_etest h.left hk
    have hga' := keygenAt_etest h.right hk'
    rw [← hs.ke, ← hs.kphi] at hga'
    rw [hk, hk']
    exact keygenEtest_same hs (BitVec.eq_of_toNat_eq (hga.trans hga'.symm))
  | dinv hk hk' hs hu => rw [hk, hk']; exact keygenDinv_same hk hk' hs hu
  | commit hk hk' hs => rw [hk, hk']; exact .commit rfl rfl ⟨hs.kn, hs.kphi, hs.ke⟩
  | failed code hk hk' => rw [hk, hk']; exact .failed code rfl rfl

theorem microKeygen_pending_same (hp : e.pending = e'.pending) (h : KeygenTwins o e e') :
    (microKeygen o e).pending = (microKeygen o e').pending := by
  cases h.same with
  | commit hk hk' hs =>
    have hkey := keygenAt_commit h.left hk
    have hkey' := keygenAt_commit h.right hk'
    rw [← hs.kphi, ← hs.ke] at hkey'
    have hkd : e.kd = e'.kd := BitVec.eq_of_toNat_eq (keyPair_inverse_unique hkey hkey')
    simp only [microKeygen, hk, hk', hs.kn, hs.kphi, hs.ke, hkd]
  | failed code hk hk' => simp only [microKeygen, hk, hk']
  | _ => rw [microKeygen_pending o (by simp [*]) (by simp [*]), microKeygen_pending o (by simp [*]) (by simp [*]), hp]

theorem microKeygen_tracks (hp : e.pending = e'.pending) (h : KeygenTwins o e e') :
    Tracks (KeygenTwins o) (microKeygen o e) (microKeygen o e') :=
  ⟨microKeygen_pending_same hp h, fun _ => ⟨microKeygen_same h, microKeygen_at h.left, microKeygen_at h.right⟩⟩

/-! ### Every command -/

/-- From acceptance a command finds the same outcome whatever the working registers hold. -/
theorem microRun_start_pending (c : Command) (o : Operands) (n : Nat) (e e' : Engine) :
    (microRun (microOf c o) n (e.start c)).pending = (microRun (microOf c o) n (e'.start c)).pending := by
  by_cases hc : c = .keygen
  · subst hc
    exact microRun_tracks (R := KeygenTwins o) (fun _ _ h0 h0' => microKeygen_tracks (h0.trans h0'.symm)) n
      ⟨rfl, fun _ => ⟨.check rfl rfl, .check rfl, .check rfl⟩⟩
  · exact microRun_tracks (R := UnitSame (LoopSame c)) (fun _ _ h0 h0' => microOf_tracks (h0.trans h0'.symm) hc o) n
      ⟨rfl, fun _ => ⟨rfl, nofun⟩⟩

/-- Settles O29: the run to the end finds an outcome, and two runs from acceptance find the same. -/
theorem outcomeIgnoresTheWorkingRegisters : Obligations.OutcomeIgnoresTheWorkingRegisters :=
  fun c o e => ⟨microRun_start_ends c o Engine.reset, microRun_start_pending c o microFuel e Engine.reset⟩

end Sys2Proof.Machine

/-! PROOFS. `barrett_reduce` (41_number_theory.md R139): its quotient estimate is at most two too small. -/

namespace Sys2Proof.Machine

/-- The estimate of R139 leaves less than `3 * m`: each of its three roundings loses at most one `m`, the last one less. -/
theorem lt_barrett_quotient_add_three (x : Nat) {m : Nat} (hm : m ≠ 0) (hx : x < m * m) :
    x < (((x >>> (bitlen m - 1)) * (2 ^ (2 * bitlen m) / m)) >>> (bitlen m + 1) + 3) * m := by
  have hpos : 0 < m := Nat.pos_of_ne_zero hm
  have hAm : 2 ^ (bitlen m - 1) ≤ m := two_pow_bitlen_le hm
  have hD : 2 ^ (2 * bitlen m) = 2 ^ (bitlen m + 1) * 2 ^ (bitlen m - 1) := by
    have hk := bitlen_pos hm
    rw [← pow_add]; congr 1; omega
  have hxD : x ≤ 2 ^ (2 * bitlen m) := by
    have hlt := lt_two_pow_bitlen m
    calc x ≤ m * m := hx.le
      _ ≤ 2 ^ bitlen m * 2 ^ bitlen m := Nat.mul_le_mul hlt.le hlt.le
      _ = 2 ^ (2 * bitlen m) := by rw [← pow_add, two_mul]
  have hA : 0 < 2 ^ (bitlen m - 1) := by positivity
  have h1 := Nat.lt_mul_div_succ x hA
  have h2 := Nat.lt_mul_div_succ (2 ^ (2 * bitlen m)) hpos
  have h2' := Nat.mul_div_le (2 ^ (2 * bitlen m)) m
  have h3 := Nat.lt_mul_div_succ (x / 2 ^ (bitlen m - 1) * (2 ^ (2 * bitlen m) / m)) (Nat.two_pow_pos (bitlen m + 1))
  simp only [Nat.shiftRight_eq_div_pow]
  generalize x / 2 ^ (bitlen m - 1) = q1 at *
  generalize 2 ^ (2 * bitlen m) / m = mu at *
  generalize q1 * mu / 2 ^ (bitlen m + 1) = q3 at *
  generalize 2 ^ (2 * bitlen m) = D at *
  generalize 2 ^ (bitlen m - 1) = A at *
  generalize 2 ^ (bitlen m + 1) = B at *
  refine Nat.lt_of_mul_lt_mul_right (a := D) ?_
  calc x * D ≤ x * (m * (mu + 1)) := Nat.mul_le_mul_left x h2.le
    _ = x * (mu * m) + x * m := by ring
    _ ≤ A * (q1 + 1) * (mu * m) + D * m := by gcongr
    _ = q1 * mu * (A * m) + A * (m * mu) + D * m := by ring
    _ ≤ q1 * mu * (A * m) + m * D + D * m := by gcongr
    _ < B * (q3 + 1) * (A * m) + m * D + D * m := by gcongr
    _ = (q3 + 3) * m * D := by rw [hD]; ring

/-- Settles O32: the estimate is never above the quotient and less than three below it. -/
theorem barrettReducesExactly : Obligations.BarrettReducesExactly := by
  intro e m x hm hx
  have hready := barrettSetup_ready e hm
  refine ⟨barrettReduce_eq_mod hm hready x, ?_⟩
  have hm' : m.toNat ≠ 0 := (BitVec.toNat_pos_of_ne_zero hm).ne'
  have hlt := lt_barrett_quotient_add_three x.toNat hm' hx
  obtain ⟨hk, hmu⟩ := hready
  rw [add_mul] at hlt
  rw [hk, hmu, barrettEstimate]
  exact Nat.sub_lt_left_of_lt_add (barrett_quotient_le x.toNat hm') hlt

end Sys2Proof.Machine

/-! PROOFS. The number-theory commands (41_number_theory.md): what holds in the loop of each one's microsequence, the outcome this
gives, and its publication. -/

namespace Sys2Proof.Machine

variable {c : Command} {o : Operands} {e : Engine} {s : State} {r : CmdOutcome}

/-! ### From microsteps to the outcome, and from the outcome to the completing step -/

/-- What a microstep of a unit comes to: the loop, where `R` holds, or an outcome, of which `Q` holds. -/
inductive LoopMicrostep (R : Engine → Prop) (Q : CmdOutcome → Prop) (e : Engine) : Prop where
  | running (hp : e.pending = none) (hR : R e)
  | found {r : CmdOutcome} (hp : e.pending = some r) (hQ : Q r)

/-- A command whose microsteps keep `R` in its loop and find only outcomes with `Q` has an outcome with `Q`. -/
theorem exists_outcome_of_microsteps {R : Engine → Prop} {Q : CmdOutcome → Prop}
    (h : ∀ e, e.pending = none → (e.unit = .loop → R e) → LoopMicrostep R Q (microOf c o e)) :
    ∃ r, outcome c o = some r ∧ Q r := by
  obtain ⟨r, hr⟩ := Option.isSome_iff_exists.mp (microRun_start_ends c o Engine.reset)
  refine ⟨r, hr, microRun_outcome (P := fun e => e.pending = none → e.unit = .loop → R e) ?_ ?_ microFuel (by simp) rfl hr⟩
  · intro e h0 hR hn _
    cases h e h0 (hR h0) with
    | running _ hR' => exact hR'
    | found hp => exact absurd (hn.symm.trans hp) nofun
  · intro e r' h0 hR hr'
    cases h e h0 (hR h0) with
    | running hp => exact absurd (hp.symm.trans hr') nofun
    | found hp hQ => rw [hp] at hr'; cases hr'; exact hQ

/-- A command whose microsteps find only the outcome `r` has the outcome `r`. -/
theorem outcome_of_microsteps {R : Engine → Prop}
    (h : ∀ e, e.pending = none → (e.unit = .loop → R e) → LoopMicrostep R (· = r) (microOf c o e)) :
    outcome c o = some r := by
  obtain ⟨_, hr, rfl⟩ := exists_outcome_of_microsteps h
  exact hr

/-- The completing step of a sound state finds the outcome of the running command (40_command_model.md R103, R106). -/
theorem microFinish_pending_eq_outcome (h : s.EngineInv) (hb : s.busy = true) :
    (microFinish (microOf s.lop s.operands) s.eng).pending = outcome s.lop s.operands := by
  obtain ⟨e, n, he⟩ := h hb
  rw [he, microFinish_of_microRun le_rfl rfl (microRun_start_ends s.lop s.operands e) n]
  exact microRun_start_pending s.lop s.operands microFuel e Engine.reset

/-- The last engine step of a running command publishes its outcome (R106, R107). -/
theorem engineStep_publishes_outcome (h : s.Completing c) (hr : outcome c s.operands = some r) :
    ∃ e, engineStep (microOf c) s = .next ({ s with eng := e, stepsLeft := 0 }.publish r) := by
  obtain ⟨hb, rfl, hl, hi⟩ := h
  rw [engineStep_complete _ hb hl,
    completeStep_of_pending ((microFinish_pending_eq_outcome hi hb).trans hr)]
  exact ⟨_, rfl⟩

/-- A result is given by its value. -/
theorem okRes_eq_of_toNat {v : Word} {n : Nat} (h : v.toNat = n) : CmdOutcome.okRes v = .okRes (BitVec.ofNat 64 n) := by
  rw [← h, BitVec.ofNat_toNat, BitVec.setWidth_eq]

/-- The commands with a modulus raise ZERO_MODULUS for 0 (41_number_theory.md R131). -/
theorem outcome_zeroModulus (hc : c ∈ [Command.modinv, .modmul, .modexp]) (hm : o.m = 0) :
    outcome c o = some (.err .zeroModulus) := by
  have herr (e : Engine) : microOf c o e = { e with pending := some (.err .zeroModulus) } := by
    simp only [List.mem_cons, List.not_mem_nil, or_false] at hc
    obtain rfl | rfl | rfl := hc <;> exact if_pos hm
  exact outcome_of_microsteps (R := fun _ => True) fun e _ _ => .found (by rw [herr e]) rfl

/-! ### GCD -/

theorem gcdStep_loop (a b : Word) (h0 : e.pending = none)
    (hR : e.unit = .loop → Nat.gcd e.ga.toNat e.gb.toNat = Nat.gcd a.toNat b.toNat) :
    LoopMicrostep (fun e => Nat.gcd e.ga.toNat e.gb.toNat = Nat.gcd a.toNat b.toNat)
      (· = .okRes (BitVec.ofNat 64 (Nat.gcd a.toNat b.toNat))) (settle (gcdStep a b e)) := by
  unfold gcdStep
  cases hu : e.unit with
  | load => exact .running h0 rfl
  | loop =>
    by_cases hgb : e.gb = 0
    · have hga : e.ga.toNat = Nat.gcd a.toNat b.toNat := by rw [← hR hu, hgb]; simp
      simp only [hgb, if_true]
      exact .found rfl (okRes_eq_of_toNat hga)
    · simp only [hgb, if_false]
      exact .running h0 ((gcdIter_gcd e).trans (hR hu))

/-- The outcome of GCD (R123). -/
theorem outcome_gcd (o : Operands) :
    outcome .gcd o = some (.okRes (BitVec.ofNat 64 (Nat.gcd o.a.toNat o.b.toNat))) :=
  outcome_of_microsteps fun _ => gcdStep_loop o.a o.b

/-- Settles O20: the loop of `gcd_unit` keeps the gcd of its registers. -/
theorem gcdPublishesTheGcd : Obligations.GcdPublishesTheGcd :=
  ⟨rfl, fun s h => engineStep_publishes_outcome h (outcome_gcd s.operands)⟩

/-- Settles O30: the laws of the gcd of natural numbers, through the outcome of GCD. -/
theorem gcdLawsHold : Obligations.GcdLawsHold := by
  intro o
  simp only [outcome_gcd]
  refine ⟨fun hb => ?_, fun _ => ?_, ?_⟩
  · rw [hb, okRes_eq_of_toNat (v := o.a) (Nat.gcd_zero_right _).symm]; rfl
  · rw [BitVec.toNat_umod, Nat.gcd_comm o.b.toNat, ← Nat.gcd_rec, Nat.gcd_comm]
  · rw [Nat.gcd_comm]

/-! ### MODINV -/

/-- What MODINV can come to for a modulus of at least 1 (R130, R132). -/
inductive ModinvOutcome (a m : Nat) : CmdOutcome → Prop where
  | noInverse (h1 : 1 < m) (hg : Nat.gcd (a % m) m ≠ 1) : ModinvOutcome a m (.err .noInverse)
  | inverse (x : Word) (hc : m = 1 ∨ Nat.gcd (a % m) m = 1) (hx : x.toNat < m) (hi : (a * x.toNat) % m = 1 % m) :
      ModinvOutcome a m (.okRes x)

/-- `modinv_engine` on `(a, m)` is in its loop only for `m > 1`, with its registers in the relation of R129. -/
structure ModinvLoop (a m : Nat) (e : Engine) : Prop where
  modulus : 1 < m
  bezout : ∃ σ, BezoutInv (a % m) m σ e

/-- At the loop's end `R0` holds the gcd (R129). -/
theorem modinvLoop_end {a : Nat} {m : Word} (h : ModinvLoop a m.toNat e) (h1 : e.r1 = 0) :
    e.r0.toNat = Nat.gcd (a % m.toNat) m.toNat := by
  obtain ⟨σ, hb⟩ := h.bezout
  have hg := hb.gcd
  rw [h1, Nat.gcd_comm m.toNat] at hg
  exact (Nat.gcd_zero_right _).symm.trans hg

theorem modinvStep_loop {a m : Word} (hm : m ≠ 0) (h0 : e.pending = none)
    (hR : e.unit = .loop → ModinvLoop a.toNat m.toNat e) :
    LoopMicrostep (ModinvLoop a.toNat m.toNat) (ModinvOutcome a.toNat m.toNat) (settle (modinvStep a m e)) := by
  unfold modinvStep
  cases hu : e.unit with
  | load =>
    by_cases h1 : m = 1
    · simp only [h1, if_true]
      exact .found rfl (.inverse 0 (.inl rfl) (by decide) (by simp))
    · have hlt : 1 < m.toNat := by
        have hpos := BitVec.toNat_pos_of_ne_zero hm
        have hne : m.toNat ≠ 1 := fun h => h1 (BitVec.eq_of_toNat_eq h)
        omega
      simp only [h1, if_false]
      exact .running h0 ⟨hlt, -1, modinvLoad_inv a m e hm⟩
  | loop =>
    have hl := hR hu
    obtain ⟨σ, hb⟩ := hl.bezout
    by_cases hr1 : e.r1 = 0
    · have hr0 := modinvLoop_end hl hr1
      by_cases h1 : e.r0 = 1
      · have h1' : e.r0.toNat = 1 := by rw [h1]; rfl
        obtain ⟨hx, hi⟩ := modinvNormalise_spec hl.modulus hb h1'
        simp only [hr1, h1, ne_eq, not_true_eq_false, if_false]
        refine .found rfl (.inverse _ (.inr (hr0.symm.trans h1')) hx ?_)
        rw [← Nat.mod_mul_mod, hi, Nat.mod_eq_of_lt hl.modulus]
      · have hg : Nat.gcd (a.toNat % m.toNat) m.toNat ≠ 1 := fun h => h1 (BitVec.eq_of_toNat_eq (hr0.trans h))
        simp only [hr1, ne_eq, not_true_eq_false, h1, not_false_eq_true, if_false, if_true]
        exact .found rfl (.noInverse hl.modulus hg)
    · simp only [ne_eq, hr1, not_false_eq_true, if_true]
      exact .running h0 ⟨hl.modulus, -σ, (modinvIter_spec m.isLt hb hr1).1⟩

/-- The outcome of MODINV for a modulus of at least 1 (R130). -/
theorem exists_outcome_modinv (hm : o.m ≠ 0) :
    ∃ r, outcome .modinv o = some r ∧ ModinvOutcome o.a.toNat o.m.toNat r := by
  refine exists_outcome_of_microsteps (R := ModinvLoop o.a.toNat o.m.toNat) fun e h0 hR => ?_
  show LoopMicrostep _ _ (microModinv o e)
  rw [microModinv, if_neg hm]
  exact modinvStep_loop hm h0 hR

/-- Settles O21: the loop of `modinv_engine` keeps the Bézout relation and ends with the gcd in `R0`. -/
theorem modinvPublishesTheInverse : Obligations.ModinvPublishesTheInverse := by
  refine ⟨rfl, fun s h => ⟨fun hm => ?_, fun h1 hg => ?_, fun hc => ?_⟩⟩
  · exact engineStep_publishes_outcome h (outcome_zeroModulus (by simp) hm)
  · have hm : s.lm ≠ 0 := fun h0 => by simp [h0] at h1
    obtain ⟨_, hr, ho⟩ := exists_outcome_modinv (o := s.operands) hm
    cases ho with
    | noInverse => exact engineStep_publishes_outcome h hr
    | inverse x hc => exact absurd hc (not_or.mpr ⟨h1.ne', hg⟩)
  · have hm : s.lm ≠ 0 := fun h0 => by simp [h0] at hc
    obtain ⟨_, hr, ho⟩ := exists_outcome_modinv (o := s.operands) hm
    cases ho with
    | noInverse h1 hg =>
      obtain hm1 | ⟨-, hg1⟩ := hc
      · exact absurd (congrArg BitVec.toNat hm1) h1.ne'
      · exact absurd hg1 hg
    | inverse x _ hx hi =>
      obtain ⟨e, he⟩ := engineStep_publishes_outcome h hr
      exact ⟨x, e, he, hx, hi⟩

/-! ### MODMUL -/

/-- The registers of MODMUL after its load (R140). -/
structure ModmulLoop (o : Operands) (e : Engine) : Prop where
  ready : BarrettReady o.m e
  product : e.x.toNat = o.a.toNat % o.m.toNat * (o.b.toNat % o.m.toNat)

theorem microModmul_loop (hm : o.m ≠ 0) (h0 : e.pending = none) (hR : e.unit = .loop → ModmulLoop o e) :
    LoopMicrostep (ModmulLoop o) (· = .okRes (BitVec.ofNat 64 (o.a.toNat * o.b.toNat % o.m.toNat))) (microModmul o e) := by
  rw [microModmul, if_neg hm]
  cases hu : e.unit with
  | load => exact .running h0 ⟨barrettSetup_ready e hm, wideProduct_toNat _ _⟩
  | loop =>
    obtain ⟨hready, hx⟩ := hR hu
    have hv : (barrettReduce e o.m e.x).toNat = o.a.toNat * o.b.toNat % o.m.toNat := by
      rw [barrettReduce_eq_mod hm hready, hx, ← Nat.mul_mod]
    exact .found rfl (okRes_eq_of_toNat hv)

/-- The outcome of MODMUL for a modulus of at least 1 (R140). -/
theorem outcome_modmul (hm : o.m ≠ 0) :
    outcome .modmul o = some (.okRes (BitVec.ofNat 64 (o.a.toNat * o.b.toNat % o.m.toNat))) :=
  outcome_of_microsteps fun _ => microModmul_loop hm

/-- Settles O22: the product of the reduced operands is reduced exactly. -/
theorem modmulPublishesTheProduct : Obligations.ModmulPublishesTheProduct :=
  ⟨rfl, fun _ h => ⟨fun hm => engineStep_publishes_outcome h (outcome_zeroModulus (by simp) hm),
    fun hm => engineStep_publishes_outcome h (outcome_modmul hm)⟩⟩

/-! ### MODEXP -/

/-- The registers of `modexp_engine` on `(b, ex, m)` in its loop (R149). -/
structure ModexpLoop (b ex m : Word) (e : Engine) : Prop where
  ready : BarrettReady m e
  reduced : e.acc.toNat < m.toNat
  power : e.acc.toNat * e.base.toNat ^ e.exp.toNat ≡ b.toNat ^ ex.toNat [MOD m.toNat]

theorem modexpLoad_loop (b ex : Word) {m : Word} (hm : m ≠ 0) (e : Engine) :
    ModexpLoop b ex m (modexpLoad b ex m e) where
  ready := barrettSetup_ready e hm
  reduced := Nat.mod_lt _ (BitVec.toNat_pos_of_ne_zero hm)
  power := by
    have hacc : (modexpLoad b ex m e).acc.toNat ≡ 1 [MOD m.toNat] := Nat.mod_modEq 1 _
    have hbase : (modexpLoad b ex m e).base.toNat ≡ b.toNat [MOD m.toNat] := Nat.mod_modEq _ _
    exact (hacc.mul (hbase.pow ex.toNat)).trans (by rw [one_mul])

theorem modexpStep_loop {b ex m : Word} (hm : m ≠ 0) (h0 : e.pending = none)
    (hR : e.unit = .loop → ModexpLoop b ex m e) :
    LoopMicrostep (ModexpLoop b ex m) (· = .okRes (BitVec.ofNat 64 (b.toNat ^ ex.toNat % m.toNat)))
      (settle (modexpStep b ex m e)) := by
  unfold modexpStep
  cases hu : e.unit with
  | load => exact .running h0 (modexpLoad_loop b ex hm e)
  | loop =>
    obtain ⟨hready, hlt, hpow⟩ := hR hu
    by_cases hexp : e.exp = 0
    · have hacc : e.acc.toNat = b.toNat ^ ex.toNat % m.toNat := by
        rw [← hpow, hexp]
        simp [Nat.mod_eq_of_lt hlt]
      simp only [hexp, if_true]
      exact .found rfl (okRes_eq_of_toNat hacc)
    · obtain ⟨hready', -, hpow'⟩ := modexpIter_spec hm hready
      have hf : (modexpIter m e).pending = none := (modexpMultiply_frame m e).pending.trans h0
      simp only [hexp, if_false]
      exact .running hf ⟨hready', modexpIter_acc_lt hm hready hlt, hpow'.trans hpow⟩

/-- The outcome of MODEXP for a modulus of at least 1 (R150). -/
theorem outcome_modexp (hm : o.m ≠ 0) :
    outcome .modexp o = some (.okRes (BitVec.ofNat 64 (o.a.toNat ^ o.b.toNat % o.m.toNat))) := by
  refine outcome_of_microsteps (R := ModexpLoop o.a o.b o.m) fun e h0 hR => ?_
  show LoopMicrostep _ _ (microModexp o e)
  rw [microModexp, if_neg hm]
  exact modexpStep_loop hm h0 hR

/-- Settles O23: the loop of `modexp_engine` keeps `ACC * BASE ^ EXP` mod m. -/
theorem modexpPublishesThePower : Obligations.ModexpPublishesThePower :=
  ⟨rfl, fun _ h => ⟨fun hm => engineStep_publishes_outcome h (outcome_zeroModulus (by simp) hm),
    fun hm => engineStep_publishes_outcome h (outcome_modexp hm)⟩⟩

/-- Settles O31: the powers with exponent 0 and 1, and the one residue mod 1, through the outcome of MODEXP. -/
theorem modexpLawsHold : Obligations.ModexpLawsHold := by
  intro o
  refine ⟨fun hb h1 => ?_, fun hb hm => ?_, fun hm => ?_⟩
  · have hm : o.m ≠ 0 := fun h0 => by simp [h0] at h1
    simp [outcome_modexp hm, hb, Nat.mod_eq_of_lt h1]
  · rw [outcome_modexp hm, hb, show (1 : Word).toNat = 1 from rfl, pow_one,
      okRes_eq_of_toNat (v := o.a % o.m) BitVec.toNat_umod]
  · have hne : o.m ≠ 0 := by rw [hm]; decide
    simp [outcome_modexp hne, hm, Nat.mod_one]

end Sys2Proof.Machine

/-! PROOFS. KEYGEN (42_key_derivation.md): the exponent search stops by 59, so what the command comes to is settled by the checks of
R160 in their order, and is the key of the two factors when they all pass. -/

namespace Sys2Proof.Machine

variable {o : Operands} {e : Engine} {s : State} {r r' : CmdOutcome}

/-! ### The exponent search -/

/-- The odd primes up to 59 (42_key_derivation.md R166). -/
def oddPrimesTo59 : Finset ℕ := {x ∈ Finset.Icc 3 59 | x.Prime}

theorem mem_oddPrimesTo59 {x : ℕ} : x ∈ oddPrimesTo59 ↔ (3 ≤ x ∧ x ≤ 59) ∧ x.Prime := by
  rw [oddPrimesTo59, Finset.mem_filter, Finset.mem_Icc]

/-- Their product does not fit in a word (R166). -/
theorem lt_prod_oddPrimesTo59 : 2 ^ 64 < ∏ x ∈ oddPrimesTo59, x := by decide

/-- A search that has turned down every odd number below `x` has not come beyond 59 (R166). -/
theorem le_59_of_rejected {phi x : ℕ} (h0 : 0 < phi) (hlt : phi < 2 ^ 64)
    (h : ∀ y, 3 ≤ y → y < x → y % 2 = 1 → Nat.gcd y phi ≠ 1) : x ≤ 59 := by
  by_contra hx
  have hdvd : ∀ y ∈ oddPrimesTo59, y ∣ phi := fun y hy => by
    obtain ⟨⟨h3, h59⟩, hp⟩ := mem_oddPrimesTo59.mp hy
    have hodd : y % 2 = 1 := hp.mod_two_eq_one_iff_ne_two.mpr (by omega)
    exact hp.dvd_iff_not_coprime.mpr (h y h3 (by omega) hodd)
  have hprod : ∏ y ∈ oddPrimesTo59, y ∣ phi :=
    Finset.prod_primes_dvd phi (fun y hy => (mem_oddPrimesTo59.mp hy).2.prime) hdvd
  exact absurd (Nat.le_of_dvd h0 hprod) (Nat.not_le.mpr (hlt.trans lt_prod_oddPrimesTo59))

/-! ### The checks -/

/-- The error that KEYGEN raises on its operands, if any: the checks in their order (42_key_derivation.md R160-R163). -/
def keygenFault (o : Operands) : Option ErrCode :=
  if o.keyValid then some .keyLocked
  else if o.a.toNat < 2 ∨ o.b.toNat < 2 ∨ o.a = o.b then some .invalidFactor
  else if 2 ^ 64 ≤ o.a.toNat * o.b.toNat then some .arithOverflow
  else none

theorem keygenFault_locked (hv : o.keyValid = true) : keygenFault o = some .keyLocked := by simp [keygenFault, hv]

theorem keygenFault_invalid (hv : o.keyValid = false) (hf : o.a.toNat < 2 ∨ o.b.toNat < 2 ∨ o.a = o.b) :
    keygenFault o = some .invalidFactor := by
  rw [keygenFault, hv, if_neg Bool.false_ne_true, if_pos hf]

/-- `K_CHECK` passed leaves the product to be checked. -/
theorem keygenFault_checked (hf : FactorsChecked o) :
    keygenFault o = if 2 ^ 64 ≤ o.a.toNat * o.b.toNat then some .arithOverflow else none := by
  have hpass : ¬(o.a.toNat < 2 ∨ o.b.toNat < 2 ∨ o.a = o.b) := by
    rintro (ha | hb | heq)
    · exact Nat.not_lt.mpr hf.left ha
    · exact Nat.not_lt.mpr hf.right hb
    · exact hf.distinct heq
  rw [keygenFault, hf.noKey, if_neg Bool.false_ne_true, if_neg hpass]

theorem keygenFault_ne_eNotFound (o : Operands) : keygenFault o ≠ some .eNotFound := by
  unfold keygenFault
  split_ifs <;> exact nofun

theorem keygenFault_of_keyPair {n phi ex d : ℕ} (hv : o.keyValid = false) (hp : KeyPair o.a.toNat o.b.toNat n phi ex d) :
    keygenFault o = none := by
  obtain ⟨ha, hb, hne, hlt⟩ := hp.factors
  rw [keygenFault_checked ⟨hv, ha, hb, fun h => hne (congrArg _ h)⟩, if_neg (Nat.not_le.mpr hlt)]

/-! ### The FSM fails only for a failed check -/

/-- A state of the key derivation on the operands `o` in which `K_ERR` holds the code of the failed check (R172). -/
structure KeygenSound (o : Operands) (e : Engine) : Prop where
  place : KeygenAt o e
  fault : ∀ code, e.kfsm = .kErr code → keygenFault o = some code

theorem keygenSound_start (o : Operands) (e : Engine) : KeygenSound o (e.start .keygen) where
  place := .check rfl
  fault code h := by rw [Engine.start_kfsm, if_pos rfl] at h; cases h

theorem keygenCheck_fault {code : ErrCode} (h : (keygenCheck o.a o.b o.keyValid e).kfsm = .kErr code) :
    keygenFault o = some code := by
  unfold keygenCheck at h
  split_ifs at h with hv hf
  · cases h; exact keygenFault_locked hv
  · cases h; exact keygenFault_invalid (by simpa using hv) hf

theorem keygenMul_fault {code : ErrCode} (hf : FactorsChecked o) (h : (keygenMul o.a o.b e).kfsm = .kErr code) :
    keygenFault o = some code := by
  rw [keygenFault_checked hf]
  unfold keygenMul at h
  dsimp only at h
  split_ifs at h with hov
  · cases h; exact if_pos hov

theorem keygenEgcd_kfsm (hk : e.kfsm = .kEgcd) : (keygenEgcd e).kfsm = .kEgcd ∨ (keygenEgcd e).kfsm = .kEtest := by
  have hf := gcdStep_frame e.ke e.kphi e
  unfold keygenEgcd
  split
  case h_1 hx => rw [hx] at hf; exact .inl (hf.kfsm.trans hk)
  case h_2 => exact .inr rfl

/-- The search does not come to its cap: its candidate is at most 59 (R166). -/
theorem keygenEtest_kfsm (hs : Staged o e.kn e.kphi) (hc : Candidate e.kphi.toNat e.ke.toNat) :
    (keygenEtest e).kfsm = .kEgcd ∨ (keygenEtest e).kfsm = .kDinv := by
  have h59 : e.ke.toNat ≤ 59 :=
    le_59_of_rejected (Nat.zero_lt_of_lt (two_le_totient hs)) e.kphi.isLt hc.rejected
  have hcap : ¬Config.eSearchLimit < (e.ke + 2).toNat := by
    simp [Config.eSearchLimit]
    omega
  unfold keygenEtest
  dsimp only
  rw [if_neg hcap]
  split_ifs
  · exact .inr rfl
  · exact .inl rfl

theorem keygenDinv_kfsm (hk : e.kfsm = .kDinv) : (keygenDinv e).kfsm = .kDinv ∨ (keygenDinv e).kfsm = .kCommit := by
  have hf := modinvStep_frame e.ke e.kphi e
  unfold keygenDinv
  split
  case h_1 hx => rw [hx] at hf; exact .inl (hf.kfsm.trans hk)
  all_goals exact .inr rfl

theorem microKeygen_fault {code : ErrCode} (h : KeygenSound o e) (hr : (microKeygen o e).kfsm = .kErr code) :
    keygenFault o = some code := by
  cases h.place with
  | check hk => rw [microKeygen, hk] at hr; exact keygenCheck_fault hr
  | mul hk hf => rw [microKeygen, hk] at hr; exact keygenMul_fault hf hr
  | einit hk => rw [microKeygen, hk] at hr; cases hr
  | egcd hk =>
    rw [microKeygen, hk] at hr
    obtain hn | hn := keygenEgcd_kfsm hk <;> exact absurd (hn.symm.trans hr) nofun
  | etest hk hs hc =>
    rw [microKeygen, hk] at hr
    obtain hn | hn := keygenEtest_kfsm hs hc <;> exact absurd (hn.symm.trans hr) nofun
  | dinv hk =>
    rw [microKeygen, hk] at hr
    obtain hn | hn := keygenDinv_kfsm hk <;> exact absurd (hn.symm.trans hr) nofun
  | commit hk => rw [microKeygen, hk] at hr; cases hr
  | failed code' hk => rw [microKeygen, hk] at hr; exact h.fault code (hk ▸ hr)

theorem microKeygen_sound (h : KeygenSound o e) : KeygenSound o (microKeygen o e) :=
  ⟨microKeygen_at h.place, fun _ => microKeygen_fault h⟩

/-! ### The outcome -/

/-- What KEYGEN comes to: the error of the failed check, or the key of its factors (42_key_derivation.md R160). -/
inductive KeygenOutcome (o : Operands) : CmdOutcome → Prop where
  | failed {code : ErrCode} (hf : keygenFault o = some code) : KeygenOutcome o (.err code)
  | key {n phi ex d : Word} (hf : keygenFault o = none)
      (hp : KeyPair o.a.toNat o.b.toNat n.toNat phi.toNat ex.toNat d.toNat) : KeygenOutcome o (.okKey n phi ex d)

theorem microKeygen_keygenOutcome (h0 : e.pending = none) (h : KeygenSound o e) (hr : (microKeygen o e).pending = some r) :
    KeygenOutcome o r := by
  cases h.place with
  | commit hk hv hp => rw [microKeygen, hk] at hr; cases hr; exact .key (keygenFault_of_keyPair hv hp) hp
  | failed code hk => rw [microKeygen, hk] at hr; cases hr; exact .failed (h.fault code hk)
  | _ =>
    have hn : (microKeygen o e).pending = none := (microKeygen_pending o (by simp [*]) (by simp [*])).trans h0
    exact absurd (hn.symm.trans hr) nofun

theorem exists_outcome_keygen (o : Operands) : ∃ r, outcome .keygen o = some r ∧ KeygenOutcome o r := by
  obtain ⟨r, hr⟩ := Option.isSome_iff_exists.mp (microRun_start_ends .keygen o Engine.reset)
  exact ⟨r, hr, microRun_outcome (P := KeygenSound o) (fun _ _ => microKeygen_sound) (fun _ _ => microKeygen_keygenOutcome)
    microFuel (keygenSound_start o _) rfl hr⟩

/-- The exponent of two factors is the least candidate (R165). -/
theorem keyPair_exponent_unique {p q p' q' n n' phi ex ex' d d' : ℕ} (h : KeyPair p q n phi ex d)
    (h' : KeyPair p' q' n' phi ex' d') : ex = ex' := by
  obtain ⟨h3, hodd, hg⟩ := h.exponent
  obtain ⟨h3', hodd', hg'⟩ := h'.exponent
  exact le_antisymm (not_lt.mp fun hlt => h.least ex' h3' hlt hodd' hg')
    (not_lt.mp fun hlt => h'.least ex h3 hlt hodd hg)

/-- The checks and the factors determine the outcome. -/
theorem keygenOutcome_unique (h : KeygenOutcome o r) (h' : KeygenOutcome o r') : r = r' := by
  cases h with
  | failed hf =>
    cases h' with
    | failed hf' => rw [Option.some.inj (hf.symm.trans hf')]
    | key hf' => exact absurd (hf.symm.trans hf') (Option.some_ne_none _)
  | key hf hp =>
    cases h' with
    | failed hf' => exact absurd (hf'.symm.trans hf) (Option.some_ne_none _)
    | key hf' hp' =>
      rw [CmdOutcome.okKey.injEq]
      have hphi := BitVec.eq_of_toNat_eq (hp.totient.trans hp'.totient.symm)
      subst hphi
      have hex := BitVec.eq_of_toNat_eq (keyPair_exponent_unique hp hp')
      subst hex
      exact ⟨BitVec.eq_of_toNat_eq (hp.modulus.trans hp'.modulus.symm), rfl, rfl,
        BitVec.eq_of_toNat_eq (keyPair_inverse_unique hp hp')⟩

/-- The outcome of KEYGEN (R160). -/
theorem outcome_keygen_iff : outcome .keygen o = some r ↔ KeygenOutcome o r := by
  obtain ⟨r₀, h₀, hr₀⟩ := exists_outcome_keygen o
  refine ⟨fun h => ?_, fun h => ?_⟩
  · rwa [← Option.some.inj (h₀.symm.trans h)]
  · rw [h₀, keygenOutcome_unique hr₀ h]

/-! ### The two factors exchanged -/

theorem keygenFault_swap (o : Operands) : keygenFault { o with a := o.b, b := o.a } = keygenFault o := by
  simp only [keygenFault, Nat.mul_comm o.b.toNat, eq_comm (a := o.b), or_left_comm (a := o.b.toNat < 2)]

theorem keyPair_swap {p q n phi ex d : ℕ} (h : KeyPair p q n phi ex d) : KeyPair q p n phi ex d :=
  { h with
    factors := by
      obtain ⟨hp, hq, hne, hlt⟩ := h.factors
      exact ⟨hq, hp, hne.symm, Nat.mul_comm p q ▸ hlt⟩
    modulus := h.modulus.trans (Nat.mul_comm p q)
    totient := h.totient.trans (Nat.mul_comm _ _) }

theorem keygenOutcome_swap (h : KeygenOutcome o r) : KeygenOutcome { o with a := o.b, b := o.a } r := by
  cases h with
  | failed hf => exact .failed ((keygenFault_swap o).trans hf)
  | key hf hp => exact .key ((keygenFault_swap o).trans hf) (keyPair_swap hp)

/-- Settles O34: the checks and the key treat the two factors alike. -/
theorem keygenIsSymmetric : Obligations.KeygenIsSymmetric := by
  intro o
  obtain ⟨r, hr, hk⟩ := exists_outcome_keygen o
  rw [hr, outcome_keygen_iff.mpr (keygenOutcome_swap hk)]

/-- Settles O33: no check has the code E_NOT_FOUND, and the exponent of a key is the first candidate coprime to the totient. -/
theorem keygenSearchStopsBy59 : Obligations.KeygenSearchStopsBy59 := by
  refine fun o => ⟨fun h => ?_, fun n phi ex d h => ?_⟩
  · obtain ⟨hf⟩ := outcome_keygen_iff.mp h
    exact keygenFault_ne_eNotFound o hf
  · cases outcome_keygen_iff.mp h with
    | key _ hp => exact le_59_of_rejected (Nat.zero_lt_of_lt hp.inverse.2.1) phi.isLt hp.least

/-! ### The completing step -/

/-- The last engine step of a KEYGEN with a failed check raises its error and changes no key register (R107). -/
theorem exec_keygen_failed {code : ErrCode} (h : s.Completing .keygen) (hf : keygenFault s.operands = some code) :
    ∃ e, exec .keygen s = .next { s with errcode := code.code, err := true, busy := false, eng := e, stepsLeft := 0 } :=
  engineStep_publishes_outcome h (outcome_keygen_iff.mpr (.failed hf))

/-- Settles O25: each clause is one check of R160, the ones before it passed. -/
theorem keygenChecksInOrder : Obligations.KeygenChecksInOrder := by
  refine fun s h => ⟨fun hv => ?_, fun hv hf => ?_, fun hv ha hb hne hov => ?_⟩
  · exact exec_keygen_failed h (keygenFault_locked hv)
  · exact exec_keygen_failed h (keygenFault_invalid hv hf)
  · exact exec_keygen_failed h ((keygenFault_checked ⟨hv, ha, hb, hne⟩).trans (if_pos hov))

/-- Settles O24: with every check passed the outcome is the key of the factors, published in the completing step. -/
theorem keygenDerivesTheKeyOfItsFactors : Obligations.KeygenDerivesTheKeyOfItsFactors := by
  refine ⟨rfl, fun s h hv ha hb hne hlt => ?_⟩
  have hpass : keygenFault s.operands = none :=
    (keygenFault_checked ⟨hv, ha, hb, hne⟩).trans (if_neg (Nat.not_le.mpr hlt))
  obtain ⟨r, hr, hk⟩ := exists_outcome_keygen s.operands
  cases hk with
  | failed hf => exact absurd (hpass.symm.trans hf) nofun
  | key _ hp =>
    obtain ⟨e, he⟩ := engineStep_publishes_outcome h hr
    exact ⟨_, _, _, _, e, he, hp⟩

end Sys2Proof.Machine

/-! PROOFS. ENCRYPT and DECRYPT (43_cipher.md): each comes to the power of its message under its exponent, mod n, so its laws are
those of powers: odd ones keep 0, 1 and n - 1, and by Fermat's theorem for each factor the two exponents undo each other. -/

namespace Sys2Proof.Machine

variable {c c' : Command} {o : Operands} {ex ex' v : Word} {s : State} {p q n phi k : ℕ}

/-! ### The outcome -/

/-- With the operands `o`, `c` is the cipher command of the exponent `ex` (43_cipher.md R190, R193). -/
inductive CipherCommand (o : Operands) : Command → Word → Prop where
  | encrypt : CipherCommand o .encrypt o.keyE
  | decrypt : CipherCommand o .decrypt o.keyD

theorem microOf_cipher (h : CipherCommand o c ex) : microOf c o = cipherMicro ex o := by
  cases h <;> rfl

/-- The exponent is the key's, whatever the message. -/
theorem CipherCommand.withMessage (h : CipherCommand o c ex) (m : Word) : CipherCommand { o with a := m } c ex := by
  cases h
  · exact .encrypt
  · exact .decrypt

theorem outcome_noKey (h : CipherCommand o c ex) (hv : o.keyValid = false) : outcome c o = some (.err .noKey) := by
  have herr (e : Engine) : microOf c o e = { e with pending := some (.err .noKey) } := by
    rw [microOf_cipher h, cipherMicro, hv]
    rfl
  exact outcome_of_microsteps (R := fun _ => True) fun e _ _ => .found (by rw [herr e]) rfl

/-- The outcome of a cipher command under a valid key (R190, R193). -/
theorem outcome_cipher (h : CipherCommand o c ex) (hv : o.keyValid = true) (hn : o.keyN ≠ 0) :
    outcome c o = some (.okRes (BitVec.ofNat 64 (o.a.toNat ^ ex.toNat % o.keyN.toNat))) := by
  refine outcome_of_microsteps (R := ModexpLoop o.a ex o.keyN) fun e h0 hR => ?_
  rw [microOf_cipher h, cipherMicro, hv]
  exact modexpStep_loop hn h0 hR

/-- The outcome is the value below n that is congruent to the power. -/
theorem outcome_cipher_of_modEq (h : CipherCommand o c ex) (hv : o.keyValid = true) (hlt : v.toNat < o.keyN.toNat)
    (hpow : o.a.toNat ^ ex.toNat ≡ v.toNat [MOD o.keyN.toNat]) : outcome c o = some (.okRes v) := by
  have hn : o.keyN ≠ 0 := fun h0 => by simp [h0] at hlt
  have hv' : v.toNat = o.a.toNat ^ ex.toNat % o.keyN.toNat := (Nat.mod_eq_of_lt hlt).symm.trans hpow.symm
  rw [outcome_cipher h hv hn, okRes_eq_of_toNat hv']

/-- A derived key has a modulus of at least 1 (R190). -/
theorem keyPair_keyN_ne_zero {d : ℕ} {n : Word} (h : KeyPair p q n.toNat phi k d) : n ≠ 0 := by
  obtain ⟨hp, hq, -, -⟩ := h.factors
  have hpos : 0 < n.toNat := h.modulus ▸ Nat.mul_pos (by omega) (by omega)
  exact fun h0 => by simp [h0] at hpos

theorem keyInv_keyN_ne_zero (h : s.KeyInv) (hv : s.keyValid = true) : s.keyN ≠ 0 := by
  obtain ⟨p, q, hk⟩ := h hv
  exact keyPair_keyN_ne_zero hk

/-- Settles O26: the last engine step publishes the outcome, NO_KEY without a key and the power under a valid one. -/
theorem cipherCommandsApplyTheKey : Obligations.CipherCommandsApplyTheKey := by
  refine ⟨rfl, rfl, fun s h hv => ?_, fun s h hv => ?_, fun s h hk hv => ?_, fun s h hk hv => ?_⟩
  · exact engineStep_publishes_outcome h (outcome_noKey .encrypt hv)
  · exact engineStep_publishes_outcome h (outcome_noKey .decrypt hv)
  · exact engineStep_publishes_outcome h (outcome_cipher .encrypt hv (keyInv_keyN_ne_zero hk hv))
  · exact engineStep_publishes_outcome h (outcome_cipher .decrypt hv (keyInv_keyN_ne_zero hk hv))

/-- Settles O35: a message and its residue have the same power mod n. -/
theorem encryptReducesItsMessage : Obligations.EncryptReducesItsMessage := by
  intro o hv hn
  rw [outcome_cipher .encrypt hv hn, outcome_cipher (o := { o with a := o.a % o.keyN }) .encrypt hv hn, BitVec.toNat_umod,
    ← Nat.pow_mod]
  exact ⟨⟨_, rfl⟩, rfl⟩

/-! ### The messages an odd power keeps -/

/-- An odd power of -1 is -1 (R192). -/
theorem pred_pow_modEq_pred (hn : 0 < n) (hk : k % 2 = 1) : (n - 1) ^ k ≡ n - 1 [MOD n] := by
  have hdvd : n - 1 + 1 ∣ (n - 1) ^ k + 1 ^ k := Odd.nat_add_dvd_pow_add_pow _ _ (Nat.odd_iff.mpr hk)
  rw [Nat.sub_add_cancel hn, one_pow] at hdvd
  refine Nat.ModEq.add_right_cancel' 1 ((Nat.modEq_zero_iff_dvd.mpr hdvd).trans ?_)
  rw [Nat.sub_add_cancel hn]
  exact (Nat.modEq_zero_iff_dvd.mpr dvd_rfl).symm

/-- Settles O36: the exponent of a key is odd, so it keeps 0, 1 and -1. -/
theorem encryptFixesTheEnds : Obligations.EncryptFixesTheEnds := by
  intro o p q phi hv hkey
  obtain ⟨h3, hodd, -⟩ := hkey.exponent
  obtain ⟨hp, hq, -, -⟩ := hkey.factors
  have hn : 1 < o.keyN.toNat := hkey.modulus ▸ Nat.one_lt_mul_iff.mpr (by omega)
  have hne : o.keyE.toNat ≠ 0 := by omega
  have hpos : 0 < o.keyN.toNat := Nat.zero_lt_of_lt hn
  have hpred : (o.keyN - 1).toNat = o.keyN.toNat - 1 := by bv_omega
  refine ⟨outcome_cipher_of_modEq .encrypt hv hpos ?_, outcome_cipher_of_modEq .encrypt hv hn ?_,
    outcome_cipher_of_modEq .encrypt hv (hpred.trans_lt (Nat.sub_lt hpos one_pos)) ?_, fun k n phi' e d hk => ?_⟩
  · exact congrArg (· % _) (zero_pow hne)
  · exact congrArg (· % _) (one_pow _)
  · rw [hpred]
    exact pred_pow_modEq_pred hpos hodd
  · cases outcome_keygen_iff.mp hk with
    | key _ hp => exact hp.exponent.2.1

/-! ### The round trip -/

/-- A power with an exponent of 1 modulo `p - 1` is the identity modulo the prime `p`: Fermat's theorem (R196). -/
theorem pow_modEq_self_of_prime (hp : p.Prime) (hpos : 0 < k) (hk : p - 1 ∣ k - 1) (x : ℕ) : x ^ k ≡ x [MOD p] := by
  have h := Int.ModEq.pow_eq_pow hp hk hpos one_pos x
  rw [pow_one] at h
  exact_mod_cast h

/-- The product of the exponents of a key of two primes is such an exponent for both, so it is the identity modulo `n` (R196). -/
theorem keyPair_pow_modEq_self {e d : ℕ} (hkey : KeyPair p q n phi e d) (hp : p.Prime) (hq : q.Prime) (x : ℕ) :
    x ^ (e * d) ≡ x [MOD n] := by
  obtain ⟨-, -, hne, -⟩ := hkey.factors
  obtain ⟨-, -, hinv⟩ := hkey.inverse
  have hpos : 0 < e * d := Nat.pos_of_ne_zero fun h0 => by simp [h0] at hinv
  have hdvd : phi ∣ e * d - 1 := hinv ▸ Nat.dvd_sub_mod (e * d)
  rw [hkey.totient] at hdvd
  rw [hkey.modulus]
  exact (Nat.modEq_and_modEq_iff_modEq_mul ((Nat.coprime_primes hp hq).mpr hne)).mp
    ⟨pow_modEq_self_of_prime hp hpos (dvd_of_mul_right_dvd hdvd) x,
      pow_modEq_self_of_prime hq hpos (dvd_of_mul_left_dvd hdvd) x⟩

/-- A cipher command undoes another when their exponents undo each other (R196). -/
theorem outcome_cipher_roundTrip (h : CipherCommand o c ex) (h' : CipherCommand o c' ex') (hv : o.keyValid = true)
    (hpow : ∀ x : ℕ, x ^ (ex.toNat * ex'.toNat) ≡ x [MOD o.keyN.toNat]) {m : Word} (hm : m.toNat < o.keyN.toNat) :
    ∃ v, outcome c { o with a := m } = some (.okRes v) ∧ outcome c' { o with a := v } = some (.okRes m) := by
  have hlt : m.toNat ^ ex.toNat % o.keyN.toNat < o.keyN.toNat := Nat.mod_lt _ (Nat.zero_lt_of_lt hm)
  have hv64 : (BitVec.ofNat 64 (m.toNat ^ ex.toNat % o.keyN.toNat)).toNat = m.toNat ^ ex.toNat % o.keyN.toNat :=
    (BitVec.toNat_ofNat _ 64).trans (Nat.mod_eq_of_lt (hlt.trans o.keyN.isLt))
  refine ⟨_, outcome_cipher_of_modEq (h.withMessage m) hv (hv64.trans_lt hlt) ?_,
    outcome_cipher_of_modEq (h'.withMessage _) hv hm ?_⟩
  · rw [hv64]
    exact (Nat.mod_modEq _ _).symm
  · show (BitVec.ofNat 64 _).toNat ^ ex'.toNat ≡ m.toNat [MOD o.keyN.toNat]
    rw [hv64]
    calc (m.toNat ^ ex.toNat % o.keyN.toNat) ^ ex'.toNat
      _ ≡ (m.toNat ^ ex.toNat) ^ ex'.toNat [MOD o.keyN.toNat] := (Nat.mod_modEq _ _).pow _
      _ = m.toNat ^ (ex.toNat * ex'.toNat) := (pow_mul _ _ _).symm
      _ ≡ m.toNat [MOD o.keyN.toNat] := hpow _

/-- The key of R168, whose factors are not prime. -/
theorem keyPair_4_9 : KeyPair 4 9 36 24 5 5 where
  factors := by decide
  modulus := rfl
  totient := rfl
  exponent := by decide
  least := by
    intro c h3 h5 hodd
    obtain rfl : c = 3 := by omega
    decide
  inverse := by decide

/-- The operands of the key of R168. -/
def operands36 : Operands :=
  { a := 0, b := 0, m := 0, keyValid := true, keyN := 36, keyE := 5, keyD := 5 }

/-- Settles O37: the product of the two exponents is 1 modulo the totient; for 4 and 9, 2 ^ 5 = 32 and 32 ^ 5 = 20 mod 36. -/
theorem rsaRoundTrip : Obligations.RsaRoundTrip := by
  refine ⟨fun o p q phi hv hp hq hkey m hm => ?_, operands36, rfl, keyPair_4_9,
    outcome_cipher_of_modEq .encrypt rfl (by decide) (by decide), outcome_cipher_of_modEq .decrypt rfl (by decide) (by decide)⟩
  have hpow := keyPair_pow_modEq_self hkey hp hq
  exact ⟨outcome_cipher_roundTrip .encrypt .decrypt hv hpow hm,
    outcome_cipher_roundTrip .decrypt .encrypt hv (fun x => Nat.mul_comm o.keyE.toNat _ ▸ hpow x) hm⟩

end Sys2Proof.Machine

/-! PROOFS. The registers behind the port (44_host_access.md R201-R208): a read shows the register's word, a write keeps the bits
the register has. -/

namespace Sys2Proof.Machine

/-! ### STATUS -/

/-- Joining two fields puts the upper one above the lower one's bits. -/
theorem toNat_append_eq_add {n k : ℕ} (x : BitVec n) (y : BitVec k) : (x ++ y).toNat = 2 ^ k * x.toNat + y.toNat := by
  rw [BitVec.toNat_append, Nat.shiftLeft_eq, Nat.mul_comm, Nat.two_pow_add_eq_or_of_lt y.isLt]

/-- The fields of STATUS at their places (44_host_access.md R203); the reserved bits add nothing. -/
theorem toNat_statusWord (s : State) :
    s.statusWord.toNat = s.busy.toNat + 2 * s.done.toNat + 4 * s.err.toNat + 8 * s.ovr.toNat + 16 * s.keyValid.toNat +
      2 ^ 8 * s.errcode.toNat + 2 ^ 16 * s.lastop.toNat := by
  have hreserved : (0 : BitVec 3).toNat = 0 := rfl
  rw [State.statusWord, BitVec.toNat_setWidth_of_le (by decide)]
  simp only [toNat_append_eq_add, BitVec.toNat_ofBool, hreserved]
  omega

/-- Settles O10: the answer is that of the port to any read, with the word of STATUS. -/
theorem statusReadShowsEveryField : Obligations.StatusReadShowsEveryField :=
  ⟨rfl, fun s => ⟨_, exec_decodeRead_eq 0x10 s, rfl, toNat_statusWord s⟩⟩

/-- Settles O11: the write is `State.w1c`, answered; that a completion's set wins is part of the order of a cycle (O38). -/
theorem statusWriteClearsPendingBits : Obligations.StatusWriteClearsPendingBits := by
  refine ⟨fun v => rfl, fun s v => exec_decodeWrite_eq 0x10 v s, fun s v hs hr hb hl => ?_⟩
  obtain ⟨-, -, hwrite, -⟩ := hostGoesFirstInACycle s hs hr hb hl
  obtain ⟨t, hedge, -, hpending⟩ := hwrite v
  exact ⟨t, hedge, hpending⟩

/-! ### Plain reads -/

/-- The offsets of ID, the operands, RES and the key registers (44_host_access.md R201, R206-R208). -/
def plainReadOffsets : List (BitVec 7) := [0x00, 0x20, 0x28, 0x30, 0x38, 0x40, 0x48, 0x50, 0x58]

/-- Settles O8: each listed pair is the read of an offset and the read value there. -/
theorem registerReadsReturnTheirRegister : Obligations.RegisterReadsReturnTheirRegister := by
  intro s iv hiv
  have hread : iv ∈ plainReadOffsets.map fun addr => (decodeRead addr, s.readval addr) := hiv
  obtain ⟨addr, -, rfl⟩ := List.mem_map.mp hread
  exact exec_decodeRead_eq addr s

/-! ### CTRL -/

/-- After CTRL takes bits 2:0 of `v`, they gate DONE, ERR and OVR into `irq` (60_exceptions.md R240). -/
theorem irq_of_ctrl_extract {t : State} {v : Word} (h : t.ctrl = v.extractLsb' 0 3) :
    t.irq = ((t.done && v.getLsbD 0) || (t.err && v.getLsbD 1) || (t.ovr && v.getLsbD 2)) := by
  simp [State.irq, State.doneIe, State.errIe, State.ovrIe, h]

/-- Settles O9: a write keeps the low three bits, a read widens them. -/
theorem controlRegisterStoresThreeBits : Obligations.ControlRegisterStoresThreeBits := by
  refine ⟨rfl, fun v => rfl, fun s v => ⟨⟨_, exec_decodeWrite_eq 0x08 v s, rfl, ?_, irq_of_ctrl_extract rfl⟩,
    _, exec_decodeRead_eq 0x08 s, rfl, ?_⟩⟩
  · exact BitVec.extractLsb'_toNat 0 3 v
  · exact BitVec.toNat_setWidth_of_le (by decide)

/-! ### The operand registers -/

/-- Settles O12: the three writes at their offsets, whose effect is the store alone. -/
theorem operandWritesStoreTheWord : Obligations.OperandWritesStoreTheWord := fun s v =>
  ⟨exec_decodeWrite_eq 0x20 v s, exec_decodeWrite_eq 0x28 v s, exec_decodeWrite_eq 0x30 v s⟩

end Sys2Proof.Machine

/-! PROOFS. Interrupts and systems (60_exceptions.md R240, R242, R249): `irq` falls only with its enables or its pending bits, and
an event happens to one core of a system. -/

namespace Sys2Proof.Machine

variable {s t : State} {i : Instr} {e : Event}

/-! ### What keeps the interrupt line high -/

/-- The enables unchanged, and no pending bit cleared. -/
structure PendingKept (s t : State) : Prop where
  ctrl : t.ctrl = s.ctrl
  done : s.done = true → t.done = true
  err : s.err = true → t.err = true
  ovr : s.ovr = true → t.ovr = true

/-- The level of `irq`, bit by bit of CTRL (R240). -/
theorem irq_eq_true_iff (s : State) :
    s.irq = true ↔ (s.done = true ∧ s.ctrl.getLsbD 0 = true) ∨ (s.err = true ∧ s.ctrl.getLsbD 1 = true) ∨
      (s.ovr = true ∧ s.ctrl.getLsbD 2 = true) := by
  simp only [State.irq, State.doneIe, State.errIe, State.ovrIe, Bool.or_eq_true, Bool.and_eq_true, or_assoc]

/-- A step that keeps the enables and the pending bits keeps the line high. -/
theorem irq_of_pendingKept (h : PendingKept s t) (hs : s.irq = true) : t.irq = true := by
  rw [irq_eq_true_iff] at hs ⊢
  rw [h.ctrl]
  exact hs.imp (.imp_left h.done) (.imp (.imp_left h.err) (.imp_left h.ovr))

/-- A host instruction that can lower `irq`: a write of CTRL or STATUS, or a CMD write that is accepted. -/
def LowersIrq (s : State) (i : Instr) : Prop :=
  (∃ v, i = .wrCtrl v) ∨ (∃ v, i = .wrStatus v) ∨ (s.busy = false ∧ ∃ w, i = .wrCmd w)

theorem hostEffect_pendingKept (hi : ¬LowersIrq s i) : PendingKept s (hostEffect i s) := by
  cases i with
  | wrCtrl v => exact absurd (.inl ⟨v, rfl⟩) hi
  | wrStatus v => exact absurd (.inr (.inl ⟨v, rfl⟩)) hi
  | wrCmd w =>
    cases hb : s.busy with
    | false => exact absurd (.inr (.inr ⟨hb, w, rfl⟩)) hi
    | true =>
      rw [hostEffect, requestCommand_busy hb]
      exact ⟨rfl, id, id, fun _ => rfl⟩
  | _ => exact ⟨rfl, id, id, id⟩

/-- An engine step sets DONE or ERR at most. -/
theorem engineEffect_pendingKept (h : EngineEffect s t) : PendingKept s t := by
  cases h with
  | published hb o ho =>
    cases o with
    | okRes v => exact ⟨rfl, fun _ => rfl, id, id⟩
    | okKey n phi e d => exact ⟨rfl, fun _ => rfl, id, id⟩
    | err code => exact ⟨rfl, id, fun _ => rfl, id⟩
  | _ => exact ⟨rfl, id, id, id⟩

/-- Besides reset, only such an instruction of the host can take an enable or a pending bit away. -/
theorem eventEffect_pendingKept (h : EventEffect s e t) :
    PendingKept s t ∨ e = .resetAssert ∨ ∃ tr, e = .transaction tr ∧ LowersIrq s (decodeTransaction tr) := by
  cases h with
  | transaction hr tr v b hb =>
    by_cases hl : LowersIrq s (decodeTransaction tr)
    · exact .inr (.inr ⟨tr, rfl, hl⟩)
    · have hk := hostEffect_pendingKept hl
      exact .inl ⟨hk.ctrl, hk.done, hk.err, hk.ovr⟩
  | engineStep => exact .inl (engineEffect_pendingKept (engineNext_effect s))
  | idleEdge =>
    have hk := engineEffect_pendingKept (engineNext_effect s.noResponse)
    exact .inl ⟨hk.ctrl, hk.done, hk.err, hk.ovr⟩
  | resetAssert => exact .inr (.inl rfl)
  | ignored => exact .inl ⟨rfl, id, id, id⟩
  | release => exact .inl ⟨rfl, id, id, id⟩
  | leave => exact .inl ⟨rfl, id, id, id⟩

/-- Settles O57: the two CTRL writes by O9's effect of such a write, and the fall of the line by what each event can do. -/
theorem interruptFollowsPendingAndEnables : Obligations.InterruptFollowsPendingAndEnables := by
  obtain ⟨-, -, hctrl⟩ := controlRegisterStoresThreeBits
  refine ⟨irq_eq_true_iff, fun s => ?_, fun s => ?_, fun s t hstep hs ht => ?_⟩
  · obtain ⟨⟨u, hx, hu, -, hirq⟩, -⟩ := hctrl s 0
    exact ⟨u, hx, by simp [hirq], by rw [hu], by rw [hu], by rw [hu]⟩
  · obtain ⟨⟨u, hx, -, -, hirq⟩, -⟩ := hctrl s 7
    exact ⟨u, hx, by simp [hirq]⟩
  · obtain hk | he | hw := eventEffect_pendingKept (step_effect hstep)
    · exact absurd (ht.symm.trans (irq_of_pendingKept hk hs)) nofun
    · exact .inl he
    · exact .inr hw

/-! ### Acceptance and completion -/

/-- Acceptance leaves OVR alone to drive the line. -/
theorem irq_accept (s : State) (w : Word) : (s.accept w).irq = (s.ovr && s.ovrIe) := by
  simp [State.irq, State.ovrIe]

/-- In the BUSY window OVR alone drives the line (40_command_model.md R101). -/
theorem irq_of_busy (h : s.StatusInv) (hb : s.busy = true) : s.irq = (s.ovr && s.ovrIe) := by
  obtain ⟨hdone, herr, -⟩ := h.busyClear hb
  simp [State.irq, hdone, herr]

/-- With OVR clear the outcome's enable alone gates the line, and a step that keeps CTRL keeps the enables. -/
theorem irq_of_ovr_clear (hc : t.ctrl = s.ctrl) (ho : t.ovr = false) :
    t.irq = ((t.done && s.doneIe) || (t.err && s.errIe)) := by
  simp [State.irq, State.doneIe, State.errIe, hc, ho]

/-- Settles O58: the line is low before the completing step, which keeps OVR clear. -/
theorem interruptFallsAtAcceptanceAndRisesAtCompletion : Obligations.InterruptFallsAtAcceptanceAndRisesAtCompletion := by
  refine ⟨fun s w hb => ⟨_, exec_wrCmd_idle hb w, irq_accept s w⟩,
    fun s hs hb _ ho => ⟨_, exec_engineInstr_eq s, ?_⟩⟩
  have hbefore : s.irq = false := by simp [irq_of_busy hs.status hb, ho]
  have hf := engineNext_frame s
  rw [irqRises, hbefore, irq_of_ovr_clear hf.ctrl (hf.ovr.trans ho), Bool.not_false, Bool.true_and]

/-! ### The cores of a system -/

/-- All an event can do to a system: nothing where it has no core of that number, else what the core does, to that core. -/
theorem happen_cases {y y' : System} {inst : Nat} (h : y.happen inst e = .next y') :
    (y.cores[inst]? = none ∧ y' = y) ∨
      ∃ s t, y.cores[inst]? = some s ∧ handleEvent e s = .next t ∧ y' = ⟨y.cores.set inst t⟩ := by
  unfold System.happen at h
  split at h
  case h_1 hnone => cases h; exact .inl ⟨hnone, rfl⟩
  case h_2 s hsome =>
    split at h
    case h_1 t ht => cases h; exact .inr ⟨s, t, hsome, ht, rfl⟩
    all_goals exact absurd h nofun

theorem numbered_reset : System.reset.Numbered := by
  intro i s hs
  obtain ⟨j, hj, rfl⟩ : ∃ j, (List.range Config.instanceCount)[i]? = some j ∧ { State.reset with inst := j } = s := by
    simpa only [System.reset, List.getElem?_map, Option.map_eq_some_iff] using hs
  obtain ⟨hlt, rfl⟩ := List.getElem?_eq_some_iff.mp hj
  exact List.getElem_range hlt

/-- A new state with the number of the one it takes the place of keeps the numbering. -/
theorem numbered_set {y : System} {inst : Nat} (hy : y.Numbered) (hs : y.cores[inst]? = some s) (ht : t.inst = s.inst) :
    System.Numbered ⟨y.cores.set inst t⟩ := by
  intro i u hu
  by_cases hi : inst = i
  · subst hi
    obtain ⟨hlt, -⟩ := List.getElem?_eq_some_iff.mp hs
    obtain rfl : t = u := by simpa [hlt] using hu
    exact ht.trans (hy inst s hs)
  · rw [List.getElem?_set_ne hi] at hu
    exact hy i u hu

/-- Settles O59: the event replaces the state of its core, if there is one, and keeps the core's number. -/
theorem instancesAreIndependent : Obligations.InstancesAreIndependent := by
  refine ⟨numbered_reset, fun y y' inst e h => ?_⟩
  obtain ⟨hnone, rfl⟩ | ⟨s, t, hs, ht, rfl⟩ := happen_cases h
  · exact ⟨rfl, fun _ _ => rfl, fun s hs => absurd (hnone.symm.trans hs) nofun, id⟩
  · refine ⟨List.length_set, fun j hj => List.getElem?_set_ne hj.symm, fun u hu => ?_, fun hy => ?_⟩
    · obtain rfl : s = u := Option.some.inj (hs.symm.trans hu)
      obtain ⟨hlt, -⟩ := List.getElem?_eq_some_iff.mp hs
      exact ⟨t, ht, List.getElem?_set_self hlt⟩
    · exact numbered_set hy hs (handleEvent_inst ht)

end Sys2Proof.Machine

/-! PROOFS. The phases of reset (70_reset_and_hazards.md R260, R262, R265): what each phase makes of an event, and that only the
state before the first reset stops one. -/

namespace Sys2Proof.Machine

variable {s : State}

/-! ### An event in each phase -/

theorem handleEvent_beforeFirst (h : s.rst = .beforeFirst) (e : Event) : handleEvent e s = beforeFirstEvent e s := by
  simp [handleEvent, h]

theorem handleEvent_held (h : s.rst = .held) (e : Event) : handleEvent e s = .next (heldEvent e s) := by
  simp [handleEvent, h]

theorem handleEvent_released (h : s.rst = .released) (e : Event) : handleEvent e s = .next (releasedEvent e s) := by
  simp [handleEvent, h]

/-! ### Progress -/

/-- Out of reset no event stops the core: every transaction is answered and the engine makes its step. -/
theorem exists_runningEvent_next (e : Event) (s : State) : ∃ t, runningEvent e s = .next t := by
  cases e with
  | transaction tr =>
    obtain ⟨v, b, -, hx⟩ := exec_decodeTransaction_eq tr s
    exact ⟨_, hx⟩
  | engineStep => exact ⟨_, exec_engineInstr_eq s⟩
  | idleEdge => exact ⟨_, exec_engineInstr_eq s.noResponse⟩
  | resetAssert => exact ⟨_, rfl⟩
  | resetRelease => exact ⟨_, rfl⟩

/-- After the first reset no event stops the core. -/
theorem exists_handleEvent_next (h : s.rst ≠ .beforeFirst) (e : Event) : ∃ t, handleEvent e s = .next t := by
  cases hr : s.rst with
  | beforeFirst => exact absurd hr h
  | held => exact ⟨_, handleEvent_held hr e⟩
  | released => exact ⟨_, handleEvent_released hr e⟩
  | running => rw [handleEvent_running hr]; exact exists_runningEvent_next e s

/-- Settles O52: a sound state has been reset, and from then on every event makes its step. -/
theorem soundStatesStep : Obligations.SoundStatesStep :=
  fun s h => exists_handleEvent_next (s := s.popEvent) h.status.wasReset s.nextEvent

/-! ### Held reset and its release -/

/-- In reset the port and `irq` are driven to zero (R260). -/
theorem outputs_zero_of_inReset (h : s.StatusInv) (hr : s.rst ≠ .running) :
    s.ack = false ∧ s.rdata = 0 ∧ s.rerr = false ∧ s.irq = false := by
  rw [h.inReset hr]
  exact ⟨rfl, rfl, rfl, rfl⟩

/-- Settles O47: the release leads to the released phase, whose next edge only leaves reset. -/
theorem resetIgnoresTransactions : Obligations.ResetIgnoresTransactions := by
  intro s hs hr
  have hreleased : s.releaseReset.rst = .released := rfl
  have hrunning : s.releaseReset.leaveReset.rst = .running := rfl
  refine ⟨outputs_zero_of_inReset hs (by simp [hr]), fun t => handleEvent_held hr _, handleEvent_held hr _,
    handleEvent_held hr _, s.releaseReset, s.releaseReset.leaveReset, handleEvent_held hr _, rfl, ?_⟩
  exact ⟨fun t => handleEvent_released hreleased _, handleEvent_released hreleased _,
    fun t => handleEvent_running hrunning _⟩

/-! ### Before the first reset -/

/-- Reset clears every field of STATUS (R261). -/
theorem statusWord_enterReset (s : State) : s.enterReset.statusWord = 0 := by
  show State.reset.statusWord = 0
  decide

/-- Settles O48: the assertion enters reset as from every phase, and each other event stops the model (assumption 11). -/
theorem onlyResetEndsTheUnresetState : Obligations.OnlyResetEndsTheUnresetState := by
  intro s e hr
  constructor
  · rintro rfl
    exact ⟨s.enterReset, handleEvent_resetAssert s, rfl, statusWord_enterReset s⟩
  · intro he
    rw [handleEvent_beforeFirst hr]
    cases e with
    | resetAssert => exact absurd rfl he
    | _ => rfl

end Sys2Proof.Machine
